-- ==== Sys2Proof/Word.lean ====
section
/-! DEFINITION. The machine's word types (00_scope.md rules R6, R7, R8). -/

namespace Sys2Proof

/-- A register value, a memory cell, an operand byte, an opcode byte or SP: 8 bits, unsigned (R7, R8). -/
abbrev Byte := BitVec 8

/-- The program counter's word: 9 bits, of which only 0 to 256 are used (R7, R24). -/
abbrev PcWord := BitVec 9

/-- A general register's number, 0 to 7 (R20). -/
abbrev RegIx := Fin 8

end Sys2Proof
end

