-- ==== Sys2Proof/Config.lean ====
section
/-! DEFINITION. The parameters of the model (00_scope.md rule R6): fixed for one machine instance.
They are held as plain data, so that the model is one machine for EVERY value they may take;
their defaults are in Machine/Params.lean and Decode.lean. -/

namespace Sys2Proof

/-- The parameter `OPCODE_BYTE`: one byte for each of the nine mnemonics (R6, R85). -/
structure OpcodeMap where
  ldi  : Byte
  prn  : Byte
  mul  : Byte
  add  : Byte
  push : Byte
  pop  : Byte
  call : Byte
  ret  : Byte
  hlt  : Byte
deriving DecidableEq, Repr

/-- The open parameters of R6. `MEM_SIZE`, `NREGS` and `XLEN` are fixed and are in the types. -/
structure Config where
  /-- `SP_INIT`: what SP and register 7 hold at construction. -/
  spInit     : Byte
  /-- `STACK_CHECK`: whether the optional stack check is on. -/
  stackCheck : Bool
  /-- `STACK_LIMIT`: the lowest value SP may take while the check is on. -/
  stackLimit : Byte
  /-- `OPCODE_BYTE`. -/
  opcodes    : OpcodeMap
deriving DecidableEq, Repr

end Sys2Proof
end

