-- ==== Sys2Proof/Syntax.lean ====
section
/-! DEFINITION. The nine instructions of spec/opcode_table.json (30_encoding.md rules R80 to R85). -/

namespace Sys2Proof

/-- The names of the nine instructions: the closed set of R85. -/
inductive Mnemonic where
  | ldi | prn | mul | add | push | pop | call | ret | hlt
deriving DecidableEq, Repr

/-- The nine mnemonics, in the order of the opcode table. -/
def Mnemonic.all : List Mnemonic := [.ldi, .prn, .mul, .add, .push, .pop, .call, .ret, .hlt]

/-- An instruction with the operand bytes its format has (R81).
A register operand is the WHOLE operand byte, not reduced to three bits: a byte above 7 is an
instruction that raises `OutOfBounds` when it runs (R82), so it is a value of this type. -/
inductive Instr where
  /-- `LDI regA, value`, format `OP_R_I` (R120). -/
  | ldi  (a : Byte) (value : Byte)
  /-- `PRN regA`, format `OP_R` (R125). -/
  | prn  (a : Byte)
  /-- `MUL regA, regB`, format `OP_R_R` (R140). -/
  | mul  (a : Byte) (b : Byte)
  /-- `ADD regA, regB`, format `OP_R_R` (R145). -/
  | add  (a : Byte) (b : Byte)
  /-- `PUSH regA`, format `OP_R` (R160). -/
  | push (a : Byte)
  /-- `POP regA`, format `OP_R` (R165). -/
  | pop  (a : Byte)
  /-- `CALL regA`, format `OP_R` (R180). -/
  | call (a : Byte)
  /-- `RET`, format `OP` (R185). -/
  | ret
  /-- `HLT`, format `OP` (R200). -/
  | hlt
deriving DecidableEq, Repr

end Sys2Proof
end

