-- ==== Sys2Proof/WellFormed.lean ====
section
/-! DEFINITION. What a program may write as an instruction, and which parameter values are legal. -/

namespace Sys2Proof

/-- The operand byte names a register: it is 0 to 7 (R20, R82). -/
abbrev namesRegister (b : Byte) : Prop := b.toNat < 8

/-- An instruction the assembler syntax of R90 can write: every register operand is `R0` to `R7`.
The other instructions exist as bytes too (R82); they decode, run, and raise `OutOfBounds`. -/
def Instr.wellFormed : Instr → Bool
  | .ldi a _  => decide (namesRegister a)
  | .prn a    => decide (namesRegister a)
  | .mul a b  => decide (namesRegister a) && decide (namesRegister b)
  | .add a b  => decide (namesRegister a) && decide (namesRegister b)
  | .push a   => decide (namesRegister a)
  | .pop a    => decide (namesRegister a)
  | .call a   => decide (namesRegister a)
  | .ret      => true
  | .hlt      => true

/-- The nine opcode bytes are pairwise distinct (R6, R85). -/
abbrev OpcodeMap.wf (o : OpcodeMap) : Prop :=
  [o.ldi, o.prn, o.mul, o.add, o.push, o.pop, o.call, o.ret, o.hlt].Nodup

/-- Legal parameter values: the opcode bytes are distinct (R6), and `STACK_LIMIT` does not exceed
`SP_INIT` (R170). -/
abbrev Config.wf (c : Config) : Prop := c.opcodes.wf ∧ c.stackLimit ≤ c.spInit

end Sys2Proof
end

