-- ==== Sys2Proof/Decode.lean ====
section
/-! DEFINITION. Decoding and encoding (30_encoding.md rules R80 to R89), both for any opcode map. -/

namespace Sys2Proof

/-- The default opcode bytes of R86. The spec takes them from general knowledge, not from its
source (D1, N1). PRESUMED, log entry 2. -/
def defaultOpcodes : OpcodeMap :=
  { ldi := 0x82, prn := 0x47, mul := 0xA2, add := 0xA0, push := 0x45, pop := 0x46,
    call := 0x50, ret := 0x11, hlt := 0x01 }

/-- `OPCODE_BYTE(m)` (R85). -/
def OpcodeMap.byte (o : OpcodeMap) : Mnemonic → Byte
  | .ldi  => o.ldi
  | .prn  => o.prn
  | .mul  => o.mul
  | .add  => o.add
  | .push => o.push
  | .pop  => o.pop
  | .call => o.call
  | .ret  => o.ret
  | .hlt  => o.hlt

/-- The instruction's mnemonic. -/
def Instr.mnemonic : Instr → Mnemonic
  | .ldi _ _ => .ldi
  | .prn _   => .prn
  | .mul _ _ => .mul
  | .add _ _ => .add
  | .push _  => .push
  | .pop _   => .pop
  | .call _  => .call
  | .ret     => .ret
  | .hlt     => .hlt

/-- How many bytes an instruction of this mnemonic has, its opcode byte included (R81, R86, R89). -/
def Mnemonic.length : Mnemonic → Nat
  | .ldi  => 3
  | .prn  => 2
  | .mul  => 3
  | .add  => 3
  | .push => 2
  | .pop  => 2
  | .call => 2
  | .ret  => 1
  | .hlt  => 1

/-- The instruction's length in bytes (R81). -/
def Instr.length (i : Instr) : Nat := i.mnemonic.length

/-- The handler looked up by the WHOLE opcode byte (R84); `none` for a byte with no handler (R88). -/
def OpcodeMap.lookup (o : OpcodeMap) (ir : Byte) : Option Mnemonic :=
  Mnemonic.all.find? fun m => o.byte m == ir

/-- The instruction of a mnemonic and the two latched bytes: operand `a` is the byte at `PC+1`,
operand `b` the byte at `PC+2`, and a format ignores the bytes it does not use (R81, R83). -/
def instrOf (m : Mnemonic) (a b : Byte) : Instr :=
  match m with
  | .ldi  => .ldi a b
  | .prn  => .prn a
  | .mul  => .mul a b
  | .add  => .add a b
  | .push => .push a
  | .pop  => .pop a
  | .call => .call a
  | .ret  => .ret
  | .hlt  => .hlt

/-- Decode the three bytes of a fetch window: `none` where the first byte has no handler, which the cycle
reports as `IllegalInstruction(ir, PC)` (R84, R88, R96). -/
def decodeWindow (o : OpcodeMap) (ir a b : Byte) : Option Instr :=
  (o.lookup ir).map fun m => instrOf m a b

/-- Why bytes are not decoded. -/
inductive DecodeError where
  /-- The first byte is no opcode (R88). -/
  | illegalOpcode (ir : Byte)
  /-- Fewer than the three bytes of a fetch window were given, which no cycle does (R96). -/
  | shortWindow
deriving DecidableEq, Repr

/-- Decode the instruction at the front of any bytes. -/
def decode (o : OpcodeMap) : List Byte → Except DecodeError Instr
  | ir :: a :: b :: _ =>
    match decodeWindow o ir a b with
    | some i => .ok i
    | none   => .error (.illegalOpcode ir)
  | _ => .error .shortWindow

/-- The operand bytes, in ascending address order (R55, R81). -/
def Instr.operands : Instr → List Byte
  | .ldi a v  => [a, v]
  | .prn a    => [a]
  | .mul a b  => [a, b]
  | .add a b  => [a, b]
  | .push a   => [a]
  | .pop a    => [a]
  | .call a   => [a]
  | .ret      => []
  | .hlt      => []

/-- The bytes of an instruction, opcode first (R80, R81, R90). -/
def encode (o : OpcodeMap) (i : Instr) : List Byte := o.byte i.mnemonic :: i.operands

/-- Byte `k` of a number whose bit 0 is bit 0 of the first byte, every bit from `nbits` up being 0. -/
def tableByte (nbits w k : Nat) : Byte := BitVec.ofNat 8 (w % 2 ^ nbits / 2 ^ (8 * k))

/-- The fetch window of an instruction given as the opcode table numbers its bits. -/
def tableWindow (nbits w : Nat) : List Byte := [tableByte nbits w 0, tableByte nbits w 1, tableByte nbits w 2]

/-- The instruction the decoder reads, under the default opcode bytes, from an instruction given as
spec/opcode_table.json numbers its bits; `none` where it reads none. -/
def decodeTableWord (nbits w : Nat) : Option Instr :=
  match decode defaultOpcodes (tableWindow nbits w) with
  | .ok i    => some i
  | .error _ => none

end Sys2Proof
end

