-- ==== Sys2Proof/Machine/Params.lean ====
section
/-! DEFINITION. The default values of the model's parameters (00_scope.md rule R6). -/

namespace Sys2Proof.Machine

/-- `SP_INIT`'s default (R6; its legal range is D3). -/
def defaultSpInit : Byte := 0xF4

/-- `STACK_CHECK`'s default: "must default to the source's unchecked behavior" (R170). -/
def defaultStackCheck : Bool := false

/-- `STACK_LIMIT`'s default (R6, D10). -/
def defaultStackLimit : Byte := 0

/-- The parameters at their defaults. -/
def defaultConfig : Config :=
  { spInit := defaultSpInit, stackCheck := defaultStackCheck, stackLimit := defaultStackLimit,
    opcodes := defaultOpcodes }

/-- What a memory cell that nothing has written holds: memory is "initialized to all-zero" (R50). -/
def unlistedByte : Byte := 0

/-- What the latches hold at construction: the spec leaves it unspecified and nothing reads it before a
cycle writes it (R34, I10). DESIGN CHOICE, log entry 5. -/
def latchAtReset : Byte := 0

end Sys2Proof.Machine
end

