-- ==== Sys2Proof/Machine/State.lean ====
section
/-! DEFINITION. Everything the spec gives the machine, as plain data (10_state.md rule R37), and the
machine at construction (70_reset_and_hazards.md rule R260). -/

namespace Sys2Proof.Machine

/-- Memory: (address, byte) pairs, addresses rising, no entry equal to what an unlisted address reads
as. Ops.lean reads and writes it and says the form. -/
abbrev Memory := List Host.Cell

/-- The run state (R31). -/
inductive RunState where
  /-- Cycles execute. -/
  | running
  /-- Entered by HLT only; terminal. -/
  | halted
  /-- Entered by a fault only; terminal. -/
  | faulted
deriving DecidableEq, Repr

/-- Which space an out-of-range index was an index of (R220). -/
inductive Space where
  | memory
  | register
deriving DecidableEq, Repr

/-- A fault's kind (R220). -/
inductive FaultKind where
  | outOfBounds
  | illegalInstruction
  | programTooLarge
  | stackOverflow
  | stackUnderflow
deriving DecidableEq, Repr

/-- A fault the core raises, with the information R220 and R221 record for its kind. -/
inductive FaultInfo where
  /-- A memory address above 255, or a register operand above 7. -/
  | outOfBounds (space : Space) (index : Nat)
  /-- An opcode byte with no handler, and the PC it stood at. -/
  | illegalInstruction (opcode : Byte) (pc : PcWord)
  /-- `load` was given `n` values, more than 256. -/
  | programTooLarge (n : Nat)
  /-- PUSH or CALL under the stack check; SP before the instruction. -/
  | stackOverflow (sp : Byte)
  /-- POP or RET under the stack check; SP before the instruction. -/
  | stackUnderflow (sp : Byte)
deriving DecidableEq, Repr

/-- The fault record (R221). `kind` and `code` are read off `info`: `FaultRecord.kind` and
`FaultRecord.code` in Ops.lean. -/
structure FaultRecord where
  info : FaultInfo
  /-- The PC of the cycle that faulted; absent for `ProgramTooLarge`. -/
  pc   : Option PcWord
deriving DecidableEq, Repr

/-- The state of one core instance: every row of R37's table, and two fields of the model's own. -/
structure State where
  /-- `x[0]` to `x[7]` (R20). -/
  regs    : Vector Byte 8
  /-- The stack pointer, its own storage, not register 7 (R27). -/
  sp      : Byte
  /-- The program counter, 0 to 256 (R24). -/
  pc      : PcWord
  /-- `M[0]` to `M[255]` (R50). -/
  mem     : Memory
  /-- The run state; the Running Flag is `run = running` (R31, R32). -/
  run     : RunState
  /-- The output channel, oldest value first (R35). -/
  out     : List Byte
  /-- The fault record (R36). -/
  fault   : Option FaultRecord
  /-- The latch of the instruction byte (R34). -/
  ir      : Byte
  /-- The latch of the byte at `PC+1` (R34). -/
  opA     : Byte
  /-- The latch of the byte at `PC+2` (R34). -/
  opB     : Byte
  /-- Whether the instance has begun a cycle, which R263 asks of `load`. The model's own field: DEDUCED,
  log entry 4. -/
  started : Bool
  /-- The parameters of R6, which no instruction reads as data or changes. The model's own field: DESIGN
  CHOICE, log entry 1. -/
  cfg     : Config
deriving DecidableEq, Repr

/-- Why a step of this machine could stop without a next state: there is no such reason.
Every fault of the spec is a NEXT state, whose run state is `faulted` and which holds the fault record
(R99, R222), so no constructor is needed and none can be raised. Safe (log entry 6). -/
inductive Fault : Type
deriving DecidableEq, Repr

/-- Why the model gives an operation no meaning. -/
inductive Refusal where
  /-- An instruction that has no meaning yet, by its mnemonic. Raised by `exec` only; no arm of it raises it,
  since every instruction has its meaning. Safe. -/
  | notModelled (mnemonic : String)
  /-- Raised by `load` (HostInterface.lean) on an instance that has begun a cycle: "A model refuses a
  `load` after the first cycle" (R263). Never raised by a step. Safe. -/
  | loadAfterFirstCycle
deriving DecidableEq, Repr

/-- How a meaning ends. -/
abbrev Result := Host.Outcome State Fault Refusal

/-- `new_machine()` (R260): a machine instance with these parameters, every part at the value R37 gives. -/
def State.newMachine (cfg : Config) : State :=
  { regs := #v[0, 0, 0, 0, 0, 0, 0, cfg.spInit]
    sp := cfg.spInit
    pc := 0
    mem := []
    run := .running
    out := []
    fault := none
    ir := latchAtReset
    opA := latchAtReset
    opB := latchAtReset
    started := false
    cfg := cfg }

/-- The machine right after construction with the default parameters. -/
def State.reset : State := State.newMachine defaultConfig

end Sys2Proof.Machine
end

