-- ==== Sys2Proof/Machine/Ops.lean ====
section
/-! DEFINITION. The named operations over memory, registers, the stack and the PC, raising a fault, and
fetching. An operation that may raise takes what follows it as a continuation `k`, so that a meaning
reads top to bottom as the spec's pseudocode does: a raise ends the instruction there, and what earlier
lines wrote stays written (00_scope.md rule R13). -/

namespace Sys2Proof.Machine

/-! ### Memory -/

/-- The byte at an address (R50). -/
def Memory.read : Memory → Nat → Byte
  | [], _ => unlistedByte
  | (k, v) :: rest, addr => if k = addr then v else Memory.read rest addr

/-- Put an entry before a list whose addresses are above its own, unless it says what an unlisted
address reads as anyway. -/
def Memory.consCell (addr : Nat) (v : Byte) (rest : Memory) : Memory :=
  if v = unlistedByte then rest else (addr, v) :: rest

/-- Store a byte at an address, keeping the canonical form (R54). -/
def Memory.write : Memory → Nat → Byte → Memory
  | [], addr, v => Memory.consCell addr v []
  | (k, w) :: rest, addr, v =>
    if addr < k then Memory.consCell addr v ((k, w) :: rest)
    else if addr = k then Memory.consCell addr v rest
    else (k, w) :: Memory.write rest addr v

/-- Store bytes at ascending addresses, with no gaps (R262). -/
def Memory.writeMany (m : Memory) (addr : Nat) : List Byte → Memory
  | []      => m
  | v :: vs => Memory.writeMany (m.write addr v) (addr + 1) vs

/-- The canonical form: addresses strictly rising and within 0 to 255 (R50), and no entry equal to what
an unlisted address reads as. -/
abbrev Memory.wf (m : Memory) : Prop :=
  m.Pairwise (fun c d => c.1 < d.1) ∧ ∀ c ∈ m, c.1 < 256 ∧ c.2 ≠ unlistedByte

/-! ### Reading and writing parts of the state -/

/-- `x[i]`, for a register number (R20). -/
def State.reg (s : State) (i : RegIx) : Byte := s.regs[i]

/-- `x[i] <- v`, for a register number (R20). Every register takes every value, 7 included, and SP does
not follow register 7 (R22). -/
def State.setReg (s : State) (i : RegIx) (v : Byte) : State := { s with regs := s.regs.set i v }

/-- The memory cell at an address. -/
def State.byteAt (s : State) (addr : Nat) : Byte := s.mem.read addr

/-- Store to a memory cell. -/
def State.setByte (s : State) (addr : Nat) (v : Byte) : State := { s with mem := s.mem.write addr v }

/-- `SP <- v` (R10). -/
def State.setSp (s : State) (v : Byte) : State := { s with sp := v }

/-- `pc <- target`, a natural of the PC's range (R10, R26). -/
def State.setPc (s : State) (target : Nat) : State := { s with pc := BitVec.ofNat 9 target }

/-- `Emit(v)` (R10, R35). -/
def State.emit (s : State) (v : Byte) : State := { s with out := s.out ++ [v] }

/-- `run <- HALTED` (R200). -/
def State.halt (s : State) : State := { s with run := .halted }

/-- The latches after a whole fetch (R34). -/
def State.latch (s : State) (ir a b : Byte) : State := { s with ir := ir, opA := a, opB := b }

/-- A cycle has begun (R263). -/
def State.begin (s : State) : State := { s with started := true }

/-! ### Faults -/

/-- The kind of a fault (R220). -/
def FaultInfo.kind : FaultInfo → FaultKind
  | .outOfBounds _ _        => .outOfBounds
  | .illegalInstruction _ _ => .illegalInstruction
  | .programTooLarge _      => .programTooLarge
  | .stackOverflow _        => .stackOverflow
  | .stackUnderflow _       => .stackUnderflow

/-- The code of a fault kind (R220; labels of the spec's own, D8). -/
def FaultKind.code : FaultKind → Nat
  | .outOfBounds        => 1
  | .illegalInstruction => 2
  | .programTooLarge    => 3
  | .stackOverflow      => 4
  | .stackUnderflow     => 5

/-- The record's field `kind` (R221). -/
def FaultRecord.kind (r : FaultRecord) : FaultKind := r.info.kind

/-- The record's field `code` (R221). -/
def FaultRecord.code (r : FaultRecord) : Nat := r.kind.code

/-- Enter `FAULTED` with a fault record and the PC it names, if it names one (R222). Nothing else changes:
there is no trap entry (R224), and the PC keeps the address of the faulting instruction. -/
def State.faultWith (s : State) (info : FaultInfo) (pc : Option PcWord) : State :=
  { s with run := .faulted, fault := some { info := info, pc := pc } }

/-- `raise F(info)` within a cycle: the record's `pc` is the PC of the cycle (R13, R221). -/
def State.raised (s : State) (info : FaultInfo) : State := s.faultWith info (some s.pc)

/-- `raise F(info)` as the end of an instruction: the faulted state is the next state (R99). -/
def raise (info : FaultInfo) (s : State) : Result := .next (s.raised info)

/-! ### Sub-steps of the pseudocode -/

/-- `MemRead(addr, 1)` (R12, R53): no wraparound, and addresses above 255 raise. -/
def memRead (addr : Nat) (s : State) (k : Byte → Result) : Result :=
  if addr ≤ 255 then k (s.byteAt addr) else raise (.outOfBounds .memory addr) s

/-- `MemWrite(addr, 1, v)` (R12, R53). -/
def memWrite (addr : Nat) (v : Byte) (s : State) (k : State → Result) : Result :=
  if addr ≤ 255 then k (s.setByte addr v) else raise (.outOfBounds .memory addr) s

/-- `pc <- PC + n` as the end of an instruction; the sum is not reduced mod 256 (R26). -/
def advance (n : Nat) (s : State) : Result := .next (s.setPc (s.pc.toNat + n))

/-- `pc <- target` as the end of an instruction, for the 8-bit targets of CALL and RET (R25). -/
def jumpTo (target : Byte) (s : State) : Result := .next (s.setPc target.toNat)

/-! ### The stack -/

/-- `wrap8(SP - 1)` (R9, R28). -/
def decSp (sp : Byte) : Byte := BitVec.ofNat 8 ((sp.toNat + 255) % 256)

/-- `wrap8(SP + 1)` (R9, R28). -/
def incSp (sp : Byte) : Byte := BitVec.ofNat 8 ((sp.toNat + 1) % 256)

/-- Whether the optional check stops a push: it is on and SP is at or below `STACK_LIMIT` (R170). -/
def State.pushBlocked (s : State) : Bool := s.cfg.stackCheck && decide (s.sp.toNat ≤ s.cfg.stackLimit.toNat)

/-- Whether the optional check stops a pop: it is on and SP is at or above `SP_INIT` (R170). -/
def State.popBlocked (s : State) : Bool := s.cfg.stackCheck && decide (s.cfg.spInit.toNat ≤ s.sp.toNat)

/-- The check that is the first sub-step of PUSH and CALL (R170). -/
def checkPush (s : State) (k : Result) : Result :=
  if s.pushBlocked then raise (.stackOverflow s.sp) s else k

/-- The check that is the first sub-step of POP and RET (R170). -/
def checkPop (s : State) (k : Result) : Result :=
  if s.popBlocked then raise (.stackUnderflow s.sp) s else k

/-- `SP <- wrap8(SP - 1)`, the first half of a push (R29). -/
def State.spDown (s : State) : State := s.setSp (decSp s.sp)

/-- `SP <- wrap8(SP + 1)`, the second half of a pop (R29). -/
def State.spUp (s : State) : State := s.setSp (incSp s.sp)

/-! ### Fetching -/

/-- The three reads of a cycle, each latched as it is made (R96): a read outside memory ends the cycle
there, before decode (R97). -/
def fetch (s : State) (k : State → Result) : Result :=
  memRead s.pc.toNat s fun ir =>
  memRead (s.pc.toNat + 1) (s.latch ir s.opA s.opB) fun a =>
  memRead (s.pc.toNat + 2) (s.latch ir a s.opB) fun b =>
  k (s.latch ir a b)

/-- Place bytes at the PC and after it, as far as memory reaches: what stands for a `load` when the host
wants one instruction to run (log entry 7). -/
def State.placeAtPc (s : State) (bytes : List Byte) : State :=
  { s with mem := s.mem.writeMany s.pc.toNat (bytes.take (256 - s.pc.toNat)) }

end Sys2Proof.Machine
end

