-- ==== Sys2Proof/Machine/Operands.lean ====
section
/-! DEFINITION. The operand forms (30_encoding.md rule R82): a register operand is the whole operand byte used
as an index; an immediate operand is the whole operand byte as it is. -/

namespace Sys2Proof.Machine

/-- `v <- x[b]` for an operand byte `b`: a byte above 7 reads nothing and raises (R11, R23). -/
def readReg (b : Byte) (s : State) (k : Byte → Result) : Result :=
  if h : b.toNat < 8 then k (s.reg ⟨b.toNat, h⟩) else raise (.outOfBounds .register b.toNat) s

/-- `x[b] <- v` for an operand byte `b`: a byte above 7 writes nothing and raises (R11, R23). -/
def writeReg (b : Byte) (v : Byte) (s : State) (k : State → Result) : Result :=
  if h : b.toNat < 8 then k (s.setReg ⟨b.toNat, h⟩ v) else raise (.outOfBounds .register b.toNat) s

/-- An immediate operand: the byte unchanged, not extended (R82). -/
def immediate (b : Byte) : Byte := b

end Sys2Proof.Machine
end

