-- ==== Sys2Proof/Machine/Arithmetic.lean ====
section
/-! DEFINITION. Arithmetic: MUL and ADD (41_arithmetic.md). -/

namespace Sys2Proof.Machine

/-- `(va * vb) mod 256`, computed exactly and then reduced (R9, R140). -/
def mulMod (va vb : Byte) : Byte := BitVec.ofNat 8 ((va.toNat * vb.toNat) % 256)

/-- `(va + vb) mod 256`, computed exactly and then reduced (R9, R145). -/
def addMod (va vb : Byte) : Byte := BitVec.ofNat 8 ((va.toNat + vb.toNat) % 256)

/-- The shape MUL and ADD share: read `x[a]`, then `x[b]`, write `x[a]`, advance by 3 (R140, R145). -/
def arith (f : Byte → Byte → Byte) (a b : Byte) (s : State) : Result :=
  readReg a s fun va =>
  readReg b s fun vb =>
  writeReg a (f va vb) s fun s =>
  advance 3 s

/-- MUL (R140). -/
def execMul (a b : Byte) (s : State) : Result := arith mulMod a b s

/-- ADD (R145). -/
def execAdd (a b : Byte) (s : State) : Result := arith addMod a b s

end Sys2Proof.Machine
end

