-- ==== Sys2Proof/Machine/Control.lean ====
section
/-! DEFINITION. Machine control: HLT (44_control.md). -/

namespace Sys2Proof.Machine

/-- HLT (R200): the PC keeps the address of the HLT. -/
def execHlt (s : State) : Result := .next s.halt

end Sys2Proof.Machine
end

