-- ==== Sys2Proof/Machine/RegisterIo.lean ====
section
/-! DEFINITION. Load-immediate and print: LDI and PRN (40_register_io.md). -/

namespace Sys2Proof.Machine

/-- LDI (R120). -/
def execLdi (a value : Byte) (s : State) : Result :=
  writeReg a (immediate value) s fun s =>
  advance 3 s

/-- PRN (R125). -/
def execPrn (a : Byte) (s : State) : Result :=
  readReg a s fun v =>
  advance 2 (s.emit v)

end Sys2Proof.Machine
end

