-- ==== Sys2Proof/Machine/Stack.lean ====
section
/-! DEFINITION. The stack instructions: PUSH and POP (42_stack.md). -/

namespace Sys2Proof.Machine

/-- PUSH (R160): SP goes down before `x[a]` is read, and stays down if that read raises. -/
def execPush (a : Byte) (s : State) : Result :=
  checkPush s <|
  let s := s.spDown
  readReg a s fun v =>
  memWrite s.sp.toNat v s fun s =>
  advance 2 s

/-- POP (R165): SP goes up after `x[a]` is written, so a bad index leaves SP as it was. -/
def execPop (a : Byte) (s : State) : Result :=
  checkPop s <|
  memRead s.sp.toNat s fun v =>
  writeReg a v s fun s =>
  advance 2 s.spUp

end Sys2Proof.Machine
end

