-- ==== Sys2Proof/Machine/Subroutine.lean ====
section
/-! DEFINITION. Subroutine control: CALL and RET (43_subroutine.md). -/

namespace Sys2Proof.Machine

/-- The return address CALL pushes: `PC + 2`, which is at most 255 in any cycle that reaches a handler
(R180). The narrowing to the cell's 8 bits is never seen (R54; log entry 8). -/
def returnAddress (pc : PcWord) : Byte := BitVec.ofNat 8 (pc.toNat + 2)

/-- CALL (R180): the push is done before `x[a]` is read, and stands if that read raises. -/
def execCall (a : Byte) (s : State) : Result :=
  checkPush s <|
  let s := s.spDown
  memWrite s.sp.toNat (returnAddress s.pc) s fun s =>
  readReg a s fun t =>
  jumpTo t s

/-- RET (R185). -/
def execRet (s : State) : Result :=
  checkPop s <|
  memRead s.sp.toNat s fun t =>
  jumpTo t s.spUp

end Sys2Proof.Machine
end

