-- ==== Sys2Proof/Machine/Flags.lean ====
section
/-! DEFINITION. The machine's one flag (10_state.md rule R32). There are no condition codes, so no instruction
computes a flag: HLT and a fault clear the Running Flag by leaving `running`. -/

namespace Sys2Proof.Machine

/-- The Running Flag: true until HLT or a fault (R32). Only the dispatch loop reads it. -/
def State.runningFlag (s : State) : Bool := decide (s.run = .running)

end Sys2Proof.Machine
end

