-- ==== Sys2Proof/Machine/Step.lean ====
section
/-! DEFINITION. One cycle of the machine (30_encoding.md rules R95, R96). -/

namespace Sys2Proof.Machine

/-- Steps 3 and 4 of R96: decode the latches, then run the instruction or raise `IllegalInstruction`. -/
def decodeAndRun (s : State) : Result :=
  match decodeWindow s.cfg.opcodes s.ir s.opA s.opB with
  | some i => exec i s
  | none   => raise (.illegalInstruction s.ir s.pc) s

/-- One host `step` (R266): one cycle while the machine is running; in a terminal state nothing happens and
the state stays as it is (R95, D18). -/
def step (s : State) : Host.Outcome State Fault Refusal :=
  if s.runningFlag then fetch s.begin decodeAndRun else .next s

/-- The state with the instruction whose bits are `w`, numbered as spec/opcode_table.json numbers them,
placed at the PC. This stands for a `load` of those bytes (log entry 7). -/
def State.withFetchWord (s : State) (nbits w : Nat) : State := s.placeAtPc (tableWindow nbits w)

end Sys2Proof.Machine
end

