-- ==== Sys2Proof/Machine/Assembler.lean ====
section
/-! DEFINITION. The assembler syntax and the list notation of programs (30_encoding.md rules R90, R91; D17).
It turns program text into the bytes `load` is given; no rule of the machine depends on it. -/

namespace Sys2Proof.Machine.Asm

/-- Characters of assembler text. -/
abbrev Chars := List Char

/-- An immediate or a raw byte: a number, or a label, which "stands for its byte address" (R90). -/
inductive Value where
  | num (v : Byte)
  | label (name : Chars)
deriving DecidableEq, Repr

/-- One row of R90's table. A register operand is `R0` to `R7` by its type; other operand bytes can be
written only with `DB`. -/
inductive Stmt where
  | ldi  (a : RegIx) (v : Value)
  | prn  (a : RegIx)
  | mul  (a b : RegIx)
  | add  (a b : RegIx)
  | push (a : RegIx)
  | pop  (a : RegIx)
  | call (a : RegIx)
  | ret
  | hlt
  | db   (v : Value)
deriving DecidableEq, Repr

/-- A line: a label before it, if any, and a statement, if any. The form `NAME:` is that of the spec's
program P3 (DEDUCED, log entry 11). -/
structure Line where
  label : Option Chars
  stmt  : Option Stmt
deriving DecidableEq, Repr

/-! ### From characters to lines -/

/-- Cut at every separator, leaving no empty piece. -/
def pieces (isSep : Char → Bool) : Chars → Chars → List Chars
  | [], acc      => if acc.isEmpty then [] else [acc.reverse]
  | c :: cs, acc =>
    if isSep c then
      if acc.isEmpty then pieces isSep cs [] else acc.reverse :: pieces isSep cs []
    else pieces isSep cs (c :: acc)

/-- The words of a line, which spaces, tabs and commas separate. -/
def words (line : Chars) : List Chars := pieces (fun c => c == ' ' || c == '\t' || c == ',') line []

/-- A digit's value. -/
def digit (c : Char) : Option Nat :=
  if 48 ≤ c.toNat ∧ c.toNat ≤ 57 then some (c.toNat - 48)
  else if 65 ≤ c.toNat ∧ c.toNat ≤ 70 then some (c.toNat - 55)
  else if 97 ≤ c.toNat ∧ c.toNat ≤ 102 then some (c.toNat - 87)
  else none

/-- Digits of a base after the value so far. -/
def digitsFrom (base : Nat) (sofar : Nat) : Chars → Option Nat
  | []      => some sofar
  | c :: cs =>
    match digit c with
    | some d => if d < base then digitsFrom base (sofar * base + d) cs else none
    | none   => none

/-- At least one digit of a base. -/
def digits (base : Nat) (cs : Chars) : Option Nat := if cs.isEmpty then none else digitsFrom base 0 cs

/-- A number "in decimal, `0x` hex or `0b` binary" (R90). -/
def number : Chars → Option Nat
  | '0' :: 'x' :: cs => digits 16 cs
  | '0' :: 'b' :: cs => digits 2 cs
  | cs               => digits 10 cs

/-- A value: a number from 0 to 255, or, for a word that begins with no digit, a label. -/
def value (w : Chars) : Option Value :=
  match w with
  | []     => none
  | c :: _ =>
    if c.toNat < 48 ∨ 57 < c.toNat then some (.label w)
    else (number w).bind fun n => if n < 256 then some (.num (BitVec.ofNat 8 n)) else none

/-- `R0` to `R7` (R90). -/
def register : Chars → Option RegIx
  | ['R', c] => (digit c).bind fun d => if h : d < 8 then some ⟨d, h⟩ else none
  | _        => none

/-- A statement's words. -/
def stmt : List Chars → Option Stmt
  | [['L', 'D', 'I'], a, v]    => (register a).bind fun a => (value v).map fun v => .ldi a v
  | [['P', 'R', 'N'], a]       => (register a).map .prn
  | [['M', 'U', 'L'], a, b]    => (register a).bind fun a => (register b).map fun b => .mul a b
  | [['A', 'D', 'D'], a, b]    => (register a).bind fun a => (register b).map fun b => .add a b
  | [['P', 'U', 'S', 'H'], a]  => (register a).map .push
  | [['P', 'O', 'P'], a]       => (register a).map .pop
  | [['C', 'A', 'L', 'L'], a]  => (register a).map .call
  | [['R', 'E', 'T']]          => some .ret
  | [['H', 'L', 'T']]          => some .hlt
  | [['D', 'B'], v]            => (value v).map .db
  | _                          => none

/-- The label a word defines, if it ends in a colon. -/
def labelOf (w : Chars) : Option Chars :=
  match w.reverse with
  | ':' :: name => if name.isEmpty then none else some name.reverse
  | _           => none

/-- The statement part of a line: nothing, or a whole statement. -/
def lineRest (label : Option Chars) (ws : List Chars) : Option Line :=
  if ws.isEmpty then some { label := label, stmt := none }
  else (stmt ws).map fun st => { label := label, stmt := some st }

/-- One line of text. -/
def parseLine (text : Chars) : Option Line :=
  match words text with
  | []      => some { label := none, stmt := none }
  | w :: ws =>
    match labelOf w with
    | some name => lineRest (some name) ws
    | none      => lineRest none (w :: ws)

/-- A whole text, a line feed ending a line; `none` if some line is not of the syntax. -/
def parse (text : Chars) : Option (List Line) := (pieces (fun c => c == '\n') text []).mapM parseLine

/-! ### From lines to bytes -/

/-- How many bytes a statement takes (R81, R90). -/
def Stmt.length : Stmt → Nat
  | .ldi _ _ => Mnemonic.length .ldi
  | .prn _   => Mnemonic.length .prn
  | .mul _ _ => Mnemonic.length .mul
  | .add _ _ => Mnemonic.length .add
  | .push _  => Mnemonic.length .push
  | .pop _   => Mnemonic.length .pop
  | .call _  => Mnemonic.length .call
  | .ret     => Mnemonic.length .ret
  | .hlt     => Mnemonic.length .hlt
  | .db _    => 1

/-- The operand byte of a register. -/
def regByte (r : RegIx) : Byte := BitVec.ofNat 8 r.val

/-- Label definitions found so far: a name and its byte address. -/
abbrev Labels := List (Chars × Nat)

/-- First pass: where each label stands, from an address on. -/
def labelsFrom (addr : Nat) : List Line → Labels
  | []      => []
  | l :: ls =>
    let rest := labelsFrom (addr + (match l.stmt with | some st => st.length | none => 0)) ls
    match l.label with
    | some name => (name, addr) :: rest
    | none      => rest

/-- A value's byte: a label must be defined, at an address that is a byte. -/
def Value.byte (ls : Labels) : Value → Option Byte
  | .num v      => some v
  | .label name =>
    (ls.find? fun d => d.1 == name).bind fun d => if d.2 < 256 then some (BitVec.ofNat 8 d.2) else none

/-- A statement's bytes (R90's table). -/
def Stmt.bytes (o : OpcodeMap) (ls : Labels) : Stmt → Option (List Byte)
  | .ldi a v => (v.byte ls).map fun v => encode o (.ldi (regByte a) v)
  | .prn a   => some (encode o (.prn (regByte a)))
  | .mul a b => some (encode o (.mul (regByte a) (regByte b)))
  | .add a b => some (encode o (.add (regByte a) (regByte b)))
  | .push a  => some (encode o (.push (regByte a)))
  | .pop a   => some (encode o (.pop (regByte a)))
  | .call a  => some (encode o (.call (regByte a)))
  | .ret     => some (encode o .ret)
  | .hlt     => some (encode o .hlt)
  | .db v    => (v.byte ls).map fun v => [v]

/-- Second pass. -/
def linesBytes (o : OpcodeMap) (ls : Labels) : List Line → Option (List Byte)
  | []        => some []
  | l :: rest =>
    (match l.stmt with | some st => st.bytes o ls | none => some []).bind fun bs =>
    (linesBytes o ls rest).map fun more => bs ++ more

/-- The image of a program whose first byte goes to address 0. -/
def assembleLines (o : OpcodeMap) (ls : List Line) : Option (List Byte) := linesBytes o (labelsFrom 0 ls) ls

/-- The image of a program text. -/
def assemble (o : OpcodeMap) (text : Chars) : Option (List Byte) := (parse text).bind (assembleLines o)

/-! ### The list notation of R91 -/

/-- An item of the list notation: "a mnemonic stands for its opcode byte and each number for one operand
byte" (R91). -/
inductive ListItem where
  | op (m : Mnemonic)
  | byte (v : Byte)
deriving DecidableEq, Repr

/-- An item's byte. -/
def ListItem.toByte (o : OpcodeMap) : ListItem → Byte
  | .op m   => o.byte m
  | .byte v => v

/-- The image a list stands for. -/
def assembleList (o : OpcodeMap) (items : List ListItem) : List Byte := items.map (ListItem.toByte o)

end Sys2Proof.Machine.Asm
end

