-- ==== Sys2Proof/Machine/HostInterface.lean ====
section
/-! DEFINITION. What the host does to the machine beside `new_machine` (State.lean) and `step` (Step.lean):
`load`, `run` and observing the result (70_reset_and_hazards.md rules R262 to R267). -/

namespace Sys2Proof.Machine

/-- `load(bytes)` (R262 to R264).
After the first cycle it is refused (R263). An instance that an earlier `load` has already faulted keeps its
state, since a faulted state "never changes again" (R95; DEDUCED, log entry 10). An image over 256 bytes
writes nothing and faults the instance with no PC (R264). Otherwise the bytes go to addresses 0 on. -/
def load (bytes : List Byte) (s : State) : Result :=
  if s.started then .refused .loadAfterFirstCycle
  else if ¬ s.runningFlag then .next s
  else if 256 < bytes.length then .next (s.faultWith (.programTooLarge bytes.length) none)
  else .next { s with mem := s.mem.writeMany 0 bytes }

/-- `run` for at most `fuel` cycles: `step` repeated until the run state is not `running` (R266).
A run need not end (R276), so the number of cycles is bounded here. -/
def runFor : Nat → State → State
  | 0, s        => s
  | fuel + 1, s =>
    if s.runningFlag then
      match step s with
      | .next t    => runFor fuel t
      | .fault _   => s
      | .refused _ => s
    else s

/-- What `run` hands back: the output log, the faulting condition if any (R126, R266), and how the run
stands. -/
structure RunReport where
  out   : List Byte
  fault : Option FaultRecord
  run   : RunState
deriving DecidableEq, Repr

/-- Read the report off a state. -/
def State.report (s : State) : RunReport := { out := s.out, fault := s.fault, run := s.run }

end Sys2Proof.Machine
end

