-- ==== Sys2Proof/Safety.lean ====
section
/-! DEFINITION. The invariant of the machine, the end of a run, and the words statements use for what a change
leaves alone. -/

namespace Sys2Proof.Machine

/-! ### What a change leaves alone -/

/-- No general register differs but, possibly, those whose numbers are listed. -/
def RegsSameExcept (except : List Nat) (s t : State) : Prop :=
  ∀ j : RegIx, j.val ∉ except → t.reg j = s.reg j

/-- Every byte reads as before but, possibly, those at the listed addresses. -/
def MemSameExcept (except : List Nat) (s t : State) : Prop :=
  ∀ addr : Nat, addr ∉ except → t.byteAt addr = s.byteAt addr

/-- What no instruction's own rule touches: the latches, the parameters, and whether a cycle has begun. -/
def FixedPartsSame (s t : State) : Prop :=
  t.ir = s.ir ∧ t.opA = s.opA ∧ t.opB = s.opB ∧ t.started = s.started ∧ t.cfg = s.cfg

/-- Run state, fault record and output are unchanged. -/
def ReportSame (s t : State) : Prop := t.run = s.run ∧ t.fault = s.fault ∧ t.out = s.out

/-- `t` is in `FAULTED` with this information and the PC of the cycle, and the PC was not written (R222). -/
def FaultedWith (info : FaultInfo) (s t : State) : Prop :=
  t.run = .faulted ∧ t.fault = some { info := info, pc := some s.pc } ∧ t.pc = s.pc

/-! ### What runs at the PC -/

/-- The instruction in the fetch window at the PC, if the window lies in memory and its first byte is an
opcode (R96). -/
def State.windowInstr (s : State) : Option Instr :=
  if s.pc.toNat ≤ 253 then
    decodeWindow s.cfg.opcodes (s.byteAt s.pc.toNat) (s.byteAt (s.pc.toNat + 1)) (s.byteAt (s.pc.toNat + 2))
  else none

/-! ### The end of a run -/

/-- The run has ended (R268). -/
def State.ended (s : State) : Prop := s.run = .halted ∨ s.run = .faulted

/-- The run ended and completed normally (R268). -/
def State.completed (s : State) : Prop := s.run = .halted

/-! ### The invariant -/

/-- What holds of every state that the host's operations reach. -/
structure State.Inv (s : State) : Prop where
  /-- Memory is in its canonical form, within 0 to 255. -/
  mem_wf      : s.mem.wf
  /-- The PC holds 0 to 256 (R24). -/
  pc_le       : s.pc.toNat ≤ 256
  /-- The parameters are legal (R6, R170). -/
  cfg_wf      : s.cfg.wf
  /-- There is a fault record exactly in `FAULTED` (R36, R222). -/
  fault_iff   : s.run = .faulted ↔ s.fault.isSome
  /-- With the stack check on, SP stays within `STACK_LIMIT` to `SP_INIT` (R170). -/
  stack_range : s.cfg.stackCheck = true →
    s.cfg.stackLimit.toNat ≤ s.sp.toNat ∧ s.sp.toNat ≤ s.cfg.spInit.toNat
  /-- A record names the PC, which has not moved since (R221, R222), unless it is `ProgramTooLarge`, which
  only `load` raises, before any cycle (R264). -/
  record_pc   : ∀ r, s.fault = some r →
    (r.kind = .programTooLarge ∧ r.pc = none ∧ s.started = false) ∨
      (r.kind ≠ .programTooLarge ∧ r.pc = some s.pc ∧ s.started = true)
  /-- Before the first cycle nothing has run: the PC is at the entry point, SP and the output are as
  constructed, and no HLT has run (R260 to R263). -/
  fresh       : s.started = false →
    s.pc = 0 ∧ s.sp = s.cfg.spInit ∧ s.out = [] ∧ s.run ≠ .halted

end Sys2Proof.Machine
end

