-- ==== Sys2Proof/Certificates/Slice0/Obligations.lean ====
section
/-! DEFINITION. The statements about the LS-8 core, for the provers. R<n> is a numbered rule of spec/.
Where a statement takes `s.mem.wf` or `s.Inv` as a premise, `StepKeepsInvariant` says that no run leaves it. -/

open Sys2Proof Sys2Proof.Machine

/-! ### Construction -/

/-- R37: the value each part of the state takes at construction, for every value of the parameters, and that
`load` then puts the image into memory; the latches' values are unspecified and the first cycle does not
depend on them. -/
def Obligations.ConstructionLeavesSpecValues : Prop :=
  ∀ cfg : Config,
    (∀ j : RegIx, (State.newMachine cfg).reg j = if j.val = 7 then cfg.spInit else 0) ∧
    (State.newMachine cfg).sp = cfg.spInit ∧
    (State.newMachine cfg).pc.toNat = 0 ∧
    (∀ addr : Nat, addr ≤ 255 → (State.newMachine cfg).byteAt addr = 0) ∧
    (State.newMachine cfg).run = .running ∧
    (State.newMachine cfg).out = [] ∧
    (State.newMachine cfg).fault = none ∧
    (∀ x y z : Byte, step ((State.newMachine cfg).latch x y z) = step (State.newMachine cfg)) ∧
    (∀ bytes : List Byte, bytes.length ≤ 256 → ∃ t, load bytes (State.newMachine cfg) = .next t ∧
      ∀ k (h : k < bytes.length), t.byteAt k = bytes[k])

/-- R34, R37, I10: no cycle reads a latch that it has not written. From states that differ in the latches
alone, the cycles whose fetch succeeds end in the same state, and the others in states that differ in the
latches alone. -/
def Obligations.LatchesAreWrittenBeforeTheyAreRead : Prop :=
  ∀ (s : State) (x y z : Byte), s.run = .running →
    (s.pc.toNat ≤ 253 → step (s.latch x y z) = step s) ∧
    (∀ t u, step s = .next t → step (s.latch x y z) = .next u → t.latch 0 0 0 = u.latch 0 0 0)

/-- R6, R86, R87: the machine right after reset is the one with the default parameters, and the default opcode
bytes follow the layout AABCDDDD: bits 7:6 count the operand bytes, bit 5 marks MUL and ADD, bit 4 marks CALL
and RET. The opcode bytes and the layout are general knowledge by the spec's own words (log entry 2), and
holding the parameters in the state is the model's choice (log entry 1). No decoding uses the layout. -/
def Obligations.ResetHasTheDefaultParameters : Prop :=
  State.reset = State.newMachine
    { spInit := 0xF4, stackCheck := false, stackLimit := 0,
      opcodes := { ldi := 0x82, prn := 0x47, mul := 0xA2, add := 0xA0, push := 0x45, pop := 0x46,
                   call := 0x50, ret := 0x11, hlt := 0x01 } } ∧
  ∀ m : Mnemonic,
    (State.reset.cfg.opcodes.byte m).toNat / 64 = m.length - 1 ∧
    ((State.reset.cfg.opcodes.byte m).getLsbD 5 = true ↔ m = .mul ∨ m = .add) ∧
    ((State.reset.cfg.opcodes.byte m).getLsbD 4 = true ↔ m = .call ∨ m = .ret)

/-! ### The invariant -/

/-- The invariant holds at construction with any legal parameters, and so at reset. -/
def Obligations.ConstructionMeetsTheInvariant : Prop :=
  (∀ cfg : Config, cfg.wf → (State.newMachine cfg).Inv) ∧ State.reset.Inv

/-- Every step keeps the invariant: memory canonical and within 0 to 255, the PC within 0 to 256 (R24), a
fault record exactly in FAULTED (R36, R222), the record's PC not moved since (R221), SP within STACK_LIMIT to
SP_INIT while the check is on (R170), the parameters legal, and nothing run before the first cycle. -/
def Obligations.StepKeepsInvariant : Prop :=
  ∀ s t : State, s.Inv → step s = .next t → t.Inv

/-- `load`, accepted, keeps the invariant, whatever it is given. -/
def Obligations.LoadKeepsInvariant : Prop :=
  ∀ (bytes : List Byte) (s t : State), s.Inv → load bytes s = .next t → t.Inv

/-! ### Encoding -/

/-- R81, R82, R84, R85: under every legal opcode map, the bytes of EVERY instruction, with every value of
every operand byte and whatever bytes follow, decode to that instruction. -/
def Obligations.EncodedInstructionDecodes : Prop :=
  ∀ (o : OpcodeMap) (i : Instr) (rest : List Byte), o.wf → 3 ≤ i.length + rest.length →
    decode o (encode o i ++ rest) = .ok i

/-- R81, R83, R84: what a window decodes to has, as its own bytes, the window's first bytes, as many as the
instruction is long; bytes beyond them do not matter. -/
def Obligations.DecodedWindowReencodes : Prop :=
  ∀ (o : OpcodeMap) (ir a b : Byte) (i : Instr), decodeWindow o ir a b = some i →
    encode o i = [ir, a, b].take i.length ∧
    (∀ a' b' : Byte, [ir, a', b'].take i.length = [ir, a, b].take i.length → decodeWindow o ir a' b' = some i)

/-- R86 with R81: words written out from the encodings of spec/opcode_table.json and of the vectors V1 to V55
decode to the instructions they stand for, and the illegal bytes of V6 to V8 to none. The default opcode
bytes are general knowledge by the spec's own words (log entry 2). -/
def Obligations.SpecWordsDecode : Prop :=
  decodeTableWord 24 0xFF0382 = some (.ldi 3 255) ∧
  decodeTableWord 16 0x0247 = some (.prn 2) ∧
  decodeTableWord 24 0x0100A2 = some (.mul 0 1) ∧
  decodeTableWord 24 0x0C00A0 = some (.add 0 12) ∧
  decodeTableWord 16 0x0745 = some (.push 7) ∧
  decodeTableWord 16 0x0846 = some (.pop 8) ∧
  decodeTableWord 16 0x0150 = some (.call 1) ∧
  decodeTableWord 8 0x11 = some .ret ∧
  decodeTableWord 8 0x01 = some .hlt ∧
  decodeTableWord 8 0x00 = none ∧
  decodeTableWord 8 0x83 = none ∧
  decodeTableWord 8 0xFF = none

/-! ### The cycle -/

/-- R96 step 4, R98: when the window at the PC decodes, a step of a running machine is that instruction, run on
the state in which the three bytes are latched and the cycle is counted as begun (log entry 4). -/
def Obligations.StepRunsTheDecodedInstruction : Prop :=
  ∀ (s : State) (i : Instr), s.run = .running → s.pc.toNat ≤ 253 →
    decodeWindow s.cfg.opcodes (s.byteAt s.pc.toNat) (s.byteAt (s.pc.toNat + 1)) (s.byteAt (s.pc.toNat + 2))
      = some i →
    step s = exec i { s with
      started := true
      ir := s.byteAt s.pc.toNat
      opA := s.byteAt (s.pc.toNat + 1)
      opB := s.byteAt (s.pc.toNat + 2) }

/-- R97: a cycle at 254, 255 or 256 faults with `OutOfBounds(memory, 256)` whatever the bytes are, and changes
nothing but the run state, the fault record and the latches. -/
def Obligations.FetchPastTheTopFaults : Prop :=
  ∀ s : State, s.run = .running → 254 ≤ s.pc.toNat → s.pc.toNat ≤ 256 →
    ∃ t, step s = .next t ∧ FaultedWith (.outOfBounds .memory 256) s t ∧
      RegsSameExcept [] s t ∧ MemSameExcept [] s t ∧ t.sp = s.sp ∧ t.out = s.out

/-- R88, R222: a byte that is none of the nine opcode bytes raises `IllegalInstruction` with the byte and the
PC, and leaves registers, memory, SP, output and PC as they were. Of the 256 byte values, 247 are illegal
under every legal opcode map. -/
def Obligations.UnmappedOpcodeFaults : Prop :=
  (∀ s : State, s.run = .running → s.pc.toNat ≤ 253 →
    (∀ m, s.cfg.opcodes.byte m ≠ s.byteAt s.pc.toNat) →
    ∃ t, step s = .next t ∧ FaultedWith (.illegalInstruction (s.byteAt s.pc.toNat) s.pc) s t ∧
      RegsSameExcept [] s t ∧ MemSameExcept [] s t ∧ t.sp = s.sp ∧ t.out = s.out) ∧
  (∀ o : OpcodeMap, o.wf →
    ((List.range 256).filter fun n => (o.lookup (BitVec.ofNat 8 n)).isNone).length = 247)

/-- R95, R96, R97: once `run` is HALTED or FAULTED, no number of host steps changes anything. While it is RUNNING
a step is exactly the cycle of R96: the instruction in the window, run on the state with the window latched; or
`IllegalInstruction` where the window's first byte is no opcode; or `OutOfBounds` where the window leaves
memory. That the cycle is counted as begun is the model's own field `started` (log entry 4), and what the
latches hold after a fetch that fails is left open here (log entry 9). -/
def Obligations.TerminalStatesNeverChange : Prop :=
  (∀ (s : State) (n : Nat), s.run = .halted ∨ s.run = .faulted → Sys2Proof.core.run n s = .next s) ∧
  (∀ (s : State) (i : Instr), s.run = .running → s.pc.toNat ≤ 253 →
    decodeWindow s.cfg.opcodes (s.byteAt s.pc.toNat) (s.byteAt (s.pc.toNat + 1)) (s.byteAt (s.pc.toNat + 2))
      = some i →
    step s = exec i { s with
      started := true
      ir := s.byteAt s.pc.toNat
      opA := s.byteAt (s.pc.toNat + 1)
      opB := s.byteAt (s.pc.toNat + 2) }) ∧
  (∀ s : State, s.run = .running → s.pc.toNat ≤ 253 →
    (∀ m, s.cfg.opcodes.byte m ≠ s.byteAt s.pc.toNat) →
    step s = .next { s with
      started := true
      ir := s.byteAt s.pc.toNat
      opA := s.byteAt (s.pc.toNat + 1)
      opB := s.byteAt (s.pc.toNat + 2)
      run := .faulted
      fault := some { info := .illegalInstruction (s.byteAt s.pc.toNat) s.pc, pc := some s.pc } }) ∧
  (∀ s : State, s.run = .running → 254 ≤ s.pc.toNat → s.pc.toNat ≤ 256 →
    ∃ x y z, step s = .next { s with
      started := true
      ir := x
      opA := y
      opB := z
      run := .faulted
      fault := some { info := .outOfBounds .memory 256, pc := some s.pc } })

/-- R99: a cycle always answers a next state, which is RUNNING after an instruction other than HLT that raises
nothing, HALTED exactly after HLT, or FAULTED with a record, where there was none. -/
def Obligations.CycleEndsInOneOfThreeWays : Prop :=
  ∀ s : State, s.run = .running → s.fault = none →
    ∃ t, step s = .next t ∧
      ((t.run = .running ∧ t.fault = none ∧ ∃ i, s.windowInstr = some i ∧ i ≠ .hlt) ∨
       (t.run = .halted ∧ t.fault = none ∧ s.windowInstr = some .hlt) ∨
       (t.run = .faulted ∧ (∃ r, t.fault = some r) ∧ s.windowInstr ≠ some .hlt))

/-! ### The instructions, one by one: what each does, on every operand -/

/-- R120. The default opcode byte, which R120 marks as general knowledge, is stated in `SpecWordsDecode`. -/
def Obligations.LdiWritesTheImmediate : Prop :=
  (∀ (o : OpcodeMap) (a v : Byte), encode o (.ldi a v) = [o.ldi, a, v]) ∧
  (∀ (s : State) (a v : Byte) (h : a.toNat < 8), s.pc.toNat ≤ 253 →
    ∃ t, exec (.ldi a v) s = .next t ∧ t.reg ⟨a.toNat, h⟩ = v ∧ RegsSameExcept [a.toNat] s t ∧
      t.pc.toNat = s.pc.toNat + 3 ∧ t.sp = s.sp ∧ MemSameExcept [] s t ∧ ReportSame s t ∧ FixedPartsSame s t) ∧
  (∀ (s : State) (a v : Byte), 8 ≤ a.toNat →
    ∃ t, exec (.ldi a v) s = .next t ∧ FaultedWith (.outOfBounds .register a.toNat) s t ∧
      RegsSameExcept [] s t ∧ t.sp = s.sp ∧ MemSameExcept [] s t ∧ t.out = s.out ∧ FixedPartsSame s t)

/-- R125. The default opcode byte is stated in `SpecWordsDecode`. -/
def Obligations.PrnEmitsTheRegister : Prop :=
  (∀ (o : OpcodeMap) (a : Byte), encode o (.prn a) = [o.prn, a]) ∧
  (∀ (s : State) (a : Byte) (h : a.toNat < 8), s.pc.toNat ≤ 253 →
    ∃ t, exec (.prn a) s = .next t ∧ t.out = s.out ++ [s.reg ⟨a.toNat, h⟩] ∧ RegsSameExcept [] s t ∧
      t.pc.toNat = s.pc.toNat + 2 ∧ t.sp = s.sp ∧ MemSameExcept [] s t ∧
      t.run = s.run ∧ t.fault = s.fault ∧ FixedPartsSame s t) ∧
  (∀ (s : State) (a : Byte), 8 ≤ a.toNat →
    ∃ t, exec (.prn a) s = .next t ∧ FaultedWith (.outOfBounds .register a.toNat) s t ∧
      RegsSameExcept [] s t ∧ t.sp = s.sp ∧ MemSameExcept [] s t ∧ t.out = s.out ∧ FixedPartsSame s t)

/-- R140. The default opcode byte is stated in `SpecWordsDecode`. -/
def Obligations.MulWritesTheProductMod256 : Prop :=
  (∀ (o : OpcodeMap) (a b : Byte), encode o (.mul a b) = [o.mul, a, b]) ∧
  (∀ (s : State) (a b : Byte) (ha : a.toNat < 8) (hb : b.toNat < 8), s.pc.toNat ≤ 253 →
    ∃ t, exec (.mul a b) s = .next t ∧
      (t.reg ⟨a.toNat, ha⟩).toNat = (s.reg ⟨a.toNat, ha⟩).toNat * (s.reg ⟨b.toNat, hb⟩).toNat % 256 ∧
      RegsSameExcept [a.toNat] s t ∧ t.pc.toNat = s.pc.toNat + 3 ∧ t.sp = s.sp ∧
      MemSameExcept [] s t ∧ ReportSame s t ∧ FixedPartsSame s t) ∧
  (∀ (s : State) (a b : Byte), 8 ≤ a.toNat ∨ 8 ≤ b.toNat →
    ∃ t, exec (.mul a b) s = .next t ∧
      FaultedWith (.outOfBounds .register (if 8 ≤ a.toNat then a.toNat else b.toNat)) s t ∧
      RegsSameExcept [] s t ∧ t.sp = s.sp ∧ MemSameExcept [] s t ∧ t.out = s.out ∧ FixedPartsSame s t)

/-- R145. The default opcode byte is stated in `SpecWordsDecode`. -/
def Obligations.AddWritesTheSumMod256 : Prop :=
  (∀ (o : OpcodeMap) (a b : Byte), encode o (.add a b) = [o.add, a, b]) ∧
  (∀ (s : State) (a b : Byte) (ha : a.toNat < 8) (hb : b.toNat < 8), s.pc.toNat ≤ 253 →
    ∃ t, exec (.add a b) s = .next t ∧
      (t.reg ⟨a.toNat, ha⟩).toNat = ((s.reg ⟨a.toNat, ha⟩).toNat + (s.reg ⟨b.toNat, hb⟩).toNat) % 256 ∧
      RegsSameExcept [a.toNat] s t ∧ t.pc.toNat = s.pc.toNat + 3 ∧ t.sp = s.sp ∧
      MemSameExcept [] s t ∧ ReportSame s t ∧ FixedPartsSame s t) ∧
  (∀ (s : State) (a b : Byte), 8 ≤ a.toNat ∨ 8 ≤ b.toNat →
    ∃ t, exec (.add a b) s = .next t ∧
      FaultedWith (.outOfBounds .register (if 8 ≤ a.toNat then a.toNat else b.toNat)) s t ∧
      RegsSameExcept [] s t ∧ t.sp = s.sp ∧ MemSameExcept [] s t ∧ t.out = s.out ∧ FixedPartsSame s t)

/-- R160. The default opcode byte is stated in `SpecWordsDecode`. The pushed byte is the register as it was;
every byte but the one at the lowered SP reads as before. -/
def Obligations.PushStoresTheRegister : Prop :=
  (∀ (o : OpcodeMap) (a : Byte), encode o (.push a) = [o.push, a]) ∧
  (∀ (s : State) (a : Byte) (h : a.toNat < 8), s.mem.wf → s.pc.toNat ≤ 253 →
    (s.cfg.stackCheck = true → s.cfg.stackLimit.toNat < s.sp.toNat) →
    ∃ t, exec (.push a) s = .next t ∧ t.sp.toNat = (s.sp.toNat + 255) % 256 ∧
      t.byteAt t.sp.toNat = s.reg ⟨a.toNat, h⟩ ∧ MemSameExcept [t.sp.toNat] s t ∧
      t.pc.toNat = s.pc.toNat + 2 ∧ RegsSameExcept [] s t ∧ ReportSame s t ∧ FixedPartsSame s t) ∧
  (∀ (s : State) (a : Byte), s.cfg.stackCheck = true → s.sp.toNat ≤ s.cfg.stackLimit.toNat →
    ∃ t, exec (.push a) s = .next t ∧ FaultedWith (.stackOverflow s.sp) s t ∧ t.sp = s.sp ∧
      RegsSameExcept [] s t ∧ MemSameExcept [] s t ∧ t.out = s.out ∧ FixedPartsSame s t) ∧
  (∀ (s : State) (a : Byte), 8 ≤ a.toNat →
    (s.cfg.stackCheck = true → s.cfg.stackLimit.toNat < s.sp.toNat) →
    ∃ t, exec (.push a) s = .next t ∧ FaultedWith (.outOfBounds .register a.toNat) s t ∧
      t.sp.toNat = (s.sp.toNat + 255) % 256 ∧
      RegsSameExcept [] s t ∧ MemSameExcept [] s t ∧ t.out = s.out ∧ FixedPartsSame s t)

/-- R165. The default opcode byte is stated in `SpecWordsDecode`. The popped cell is not cleared. -/
def Obligations.PopLoadsTheRegister : Prop :=
  (∀ (o : OpcodeMap) (a : Byte), encode o (.pop a) = [o.pop, a]) ∧
  (∀ (s : State) (a : Byte) (h : a.toNat < 8), s.pc.toNat ≤ 253 →
    (s.cfg.stackCheck = true → s.sp.toNat < s.cfg.spInit.toNat) →
    ∃ t, exec (.pop a) s = .next t ∧ t.reg ⟨a.toNat, h⟩ = s.byteAt s.sp.toNat ∧
      RegsSameExcept [a.toNat] s t ∧ t.sp.toNat = (s.sp.toNat + 1) % 256 ∧
      t.pc.toNat = s.pc.toNat + 2 ∧ MemSameExcept [] s t ∧ ReportSame s t ∧ FixedPartsSame s t) ∧
  (∀ (s : State) (a : Byte), s.cfg.stackCheck = true → s.cfg.spInit.toNat ≤ s.sp.toNat →
    ∃ t, exec (.pop a) s = .next t ∧ FaultedWith (.stackUnderflow s.sp) s t ∧ t.sp = s.sp ∧
      RegsSameExcept [] s t ∧ MemSameExcept [] s t ∧ t.out = s.out ∧ FixedPartsSame s t) ∧
  (∀ (s : State) (a : Byte), 8 ≤ a.toNat →
    (s.cfg.stackCheck = true → s.sp.toNat < s.cfg.spInit.toNat) →
    ∃ t, exec (.pop a) s = .next t ∧ FaultedWith (.outOfBounds .register a.toNat) s t ∧ t.sp = s.sp ∧
      RegsSameExcept [] s t ∧ MemSameExcept [] s t ∧ t.out = s.out ∧ FixedPartsSame s t)

/-- R180. The default opcode byte is stated in `SpecWordsDecode`. With a bad register index the push stands. -/
def Obligations.CallPushesTheReturnAddressAndJumps : Prop :=
  (∀ (o : OpcodeMap) (a : Byte), encode o (.call a) = [o.call, a]) ∧
  (∀ (s : State) (a : Byte) (h : a.toNat < 8), s.mem.wf → s.pc.toNat ≤ 253 →
    (s.cfg.stackCheck = true → s.cfg.stackLimit.toNat < s.sp.toNat) →
    ∃ t, exec (.call a) s = .next t ∧ t.sp.toNat = (s.sp.toNat + 255) % 256 ∧
      (t.byteAt t.sp.toNat).toNat = s.pc.toNat + 2 ∧ MemSameExcept [t.sp.toNat] s t ∧
      t.pc.toNat = (s.reg ⟨a.toNat, h⟩).toNat ∧ RegsSameExcept [] s t ∧ ReportSame s t ∧ FixedPartsSame s t) ∧
  (∀ (s : State) (a : Byte), s.cfg.stackCheck = true → s.sp.toNat ≤ s.cfg.stackLimit.toNat →
    ∃ t, exec (.call a) s = .next t ∧ FaultedWith (.stackOverflow s.sp) s t ∧ t.sp = s.sp ∧
      RegsSameExcept [] s t ∧ MemSameExcept [] s t ∧ t.out = s.out ∧ FixedPartsSame s t) ∧
  (∀ (s : State) (a : Byte), 8 ≤ a.toNat → s.mem.wf → s.pc.toNat ≤ 253 →
    (s.cfg.stackCheck = true → s.cfg.stackLimit.toNat < s.sp.toNat) →
    ∃ t, exec (.call a) s = .next t ∧ FaultedWith (.outOfBounds .register a.toNat) s t ∧
      t.sp.toNat = (s.sp.toNat + 255) % 256 ∧ (t.byteAt t.sp.toNat).toNat = s.pc.toNat + 2 ∧
      MemSameExcept [t.sp.toNat] s t ∧ RegsSameExcept [] s t ∧ t.out = s.out ∧ FixedPartsSame s t)

/-- R185. The default opcode byte is stated in `SpecWordsDecode`. RET jumps to whatever byte the stack holds. -/
def Obligations.RetPopsThePc : Prop :=
  (∀ o : OpcodeMap, encode o .ret = [o.ret]) ∧
  (∀ s : State, (s.cfg.stackCheck = true → s.sp.toNat < s.cfg.spInit.toNat) →
    ∃ t, exec .ret s = .next t ∧ t.pc.toNat = (s.byteAt s.sp.toNat).toNat ∧
      t.sp.toNat = (s.sp.toNat + 1) % 256 ∧ RegsSameExcept [] s t ∧ MemSameExcept [] s t ∧
      ReportSame s t ∧ FixedPartsSame s t) ∧
  (∀ s : State, s.cfg.stackCheck = true → s.cfg.spInit.toNat ≤ s.sp.toNat →
    ∃ t, exec .ret s = .next t ∧ FaultedWith (.stackUnderflow s.sp) s t ∧ t.sp = s.sp ∧
      RegsSameExcept [] s t ∧ MemSameExcept [] s t ∧ t.out = s.out ∧ FixedPartsSame s t)

/-- R200. The default opcode byte is stated in `SpecWordsDecode`. HLT clears the Running Flag and nothing else;
at 254 and 255 its fetch faults and it does not halt; after it no step changes anything. -/
def Obligations.HltHalts : Prop :=
  (∀ o : OpcodeMap, encode o .hlt = [o.hlt]) ∧
  (∀ s : State, ∃ t, exec .hlt s = .next t ∧ t.run = .halted ∧ t.runningFlag = false ∧ t.pc = s.pc ∧
    t.sp = s.sp ∧ RegsSameExcept [] s t ∧ MemSameExcept [] s t ∧ t.out = s.out ∧ t.fault = s.fault ∧
    FixedPartsSame s t ∧ step t = .next t) ∧
  (∀ s t : State, s.run = .running → s.pc.toNat = 254 ∨ s.pc.toNat = 255 → step s = .next t →
    t.run ≠ .halted ∧ FaultedWith (.outOfBounds .memory 256) s t) ∧
  (∀ (s t : State) (i : Instr), s.run = .running → exec i s = .next t → (t.run = .halted ↔ i = .hlt))

/-! ### Frames -/

/-- LDI, PRN, MUL, ADD and HLT, whichever way they go: no byte of memory changes, SP stays, and no register
changes but the destination of LDI, MUL and ADD; only PRN touches the output (R52, R21, R28, R35). -/
def Obligations.RegisterInstructionFrame : Prop :=
  ∀ (s t : State) (i : Instr), exec i s = .next t →
    (i = .hlt ∨ (∃ a, i = .prn a) ∨ ∃ a x, i = .ldi a x ∨ i = .mul a x ∨ i = .add a x) →
    MemSameExcept [] s t ∧ t.sp = s.sp ∧ FixedPartsSame s t ∧
    (∀ a x, i = .ldi a x ∨ i = .mul a x ∨ i = .add a x → RegsSameExcept [a.toNat] s t ∧ t.out = s.out) ∧
    (∀ a, i = .prn a → RegsSameExcept [] s t) ∧
    (i = .hlt → RegsSameExcept [] s t ∧ t.out = s.out ∧ t.pc = s.pc)

/-- PUSH and CALL, whichever way they go: no register changes, nor the output, and no byte of memory but the one
at SP less one (mod 256), which is where they store (R52, R160, R180). -/
def Obligations.StackStoreFrame : Prop :=
  ∀ (s t : State) (a : Byte), s.mem.wf → exec (.push a) s = .next t ∨ exec (.call a) s = .next t →
    RegsSameExcept [] s t ∧ t.out = s.out ∧ FixedPartsSame s t ∧ MemSameExcept [(decSp s.sp).toNat] s t

/-- POP and RET, whichever way they go: no byte of memory changes, nor the output, and no register but POP's
destination (R52, R165, R185). -/
def Obligations.StackLoadFrame : Prop :=
  (∀ (s t : State) (a : Byte), exec (.pop a) s = .next t →
    RegsSameExcept [a.toNat] s t ∧ MemSameExcept [] s t ∧ t.out = s.out ∧ FixedPartsSame s t) ∧
  (∀ s t : State, exec .ret s = .next t →
    RegsSameExcept [] s t ∧ MemSameExcept [] s t ∧ t.out = s.out ∧ FixedPartsSame s t)

/-! ### Rules about the whole machine -/

/-- R25: the PC is written only as the table says, by the instruction in the window; a fault, an undefined opcode
and a terminal state leave it. -/
def Obligations.PcIsWrittenAsTabled : Prop :=
  ∀ s t : State, step s = .next t →
    (s.run ≠ .running ∨ s.windowInstr = none ∨ t.run = .faulted → t.pc = s.pc) ∧
    (∀ i, s.run = .running → s.windowInstr = some i → t.run ≠ .faulted →
      match i with
      | .ldi _ _ | .mul _ _ | .add _ _ => t.pc.toNat = s.pc.toNat + 3
      | .prn _ | .push _ | .pop _ => t.pc.toNat = s.pc.toNat + 2
      | .call a => ∃ h : a.toNat < 8, t.pc.toNat = (s.reg ⟨a.toNat, h⟩).toNat
      | .ret => t.pc.toNat = (s.byteAt s.sp.toNat).toNat
      | .hlt => t.pc = s.pc)

/-- R28: SP changes only in PUSH and CALL, by one down, and in POP and RET, by one up, mod 256; and with the
stack check off no cycle raises a stack fault. -/
def Obligations.SpMovesByOneInStackInstructionsOnly : Prop :=
  ∀ s t : State, step s = .next t →
    (t.sp ≠ s.sp →
      (∃ a, (s.windowInstr = some (.push a) ∨ s.windowInstr = some (.call a)) ∧
        t.sp.toNat = (s.sp.toNat + 255) % 256) ∨
      (((∃ a, s.windowInstr = some (.pop a)) ∨ s.windowInstr = some .ret) ∧
        t.sp.toNat = (s.sp.toNat + 1) % 256)) ∧
    (s.run = .running → s.cfg.stackCheck = false → s.fault = none →
      ∀ r, t.fault = some r → r.kind ≠ .stackOverflow ∧ r.kind ≠ .stackUnderflow)

/-- R21: a step changes a register only if the instruction in the window is an LDI, MUL, ADD or POP whose first
operand names it. -/
def Obligations.RegistersChangeOnlyWhenNamed : Prop :=
  ∀ (s t : State) (j : RegIx), step s = .next t → t.reg j ≠ s.reg j →
    s.run = .running ∧ ∃ a x, a.toNat = j.val ∧
      (s.windowInstr = some (.ldi a x) ∨ s.windowInstr = some (.mul a x) ∨
       s.windowInstr = some (.add a x) ∨ s.windowInstr = some (.pop a))

/-- R52: a step changes a byte of memory only if the instruction in the window is a PUSH or CALL and the byte is
the one at SP less one. -/
def Obligations.MemoryChangesOnlyAtThePushAddress : Prop :=
  ∀ (s t : State) (addr : Nat), s.mem.wf → step s = .next t → t.byteAt addr ≠ s.byteAt addr →
    s.run = .running ∧ addr = (decSp s.sp).toNat ∧
      ∃ a, s.windowInstr = some (.push a) ∨ s.windowInstr = some (.call a)

/-- R35: the output channel is empty at construction, only PRN appends to it, nothing else changes it, and no
instruction reads it: replacing it changes a step in nothing but the output. -/
def Obligations.OutputIsAppendedByPrnOnly : Prop :=
  (∀ cfg : Config, (State.newMachine cfg).out = []) ∧
  (∀ s t : State, step s = .next t →
    t.out = s.out ∨
    ∃ (a : Byte) (h : a.toNat < 8), s.windowInstr = some (.prn a) ∧ t.out = s.out ++ [s.reg ⟨a.toNat, h⟩]) ∧
  (∀ (s t : State) (l : List Byte), step s = .next t →
    ∃ t', step { s with out := l } = .next t' ∧ { t' with out := t.out } = t)

/-- R36: the fault record is empty at construction, is written when FAULTED is entered and only then, and once
written stays; an oversized `load` writes it before any cycle. -/
def Obligations.FaultRecordIsWrittenOnce : Prop :=
  (∀ cfg : Config, (State.newMachine cfg).fault = none) ∧
  (∀ s t : State, s.Inv → step s = .next t →
    (∀ r, s.fault = some r → t.fault = some r) ∧
    (s.fault = none → (t.fault.isSome ↔ t.run = .faulted))) ∧
  (∀ (bytes : List Byte) (s t : State), s.Inv → load bytes s = .next t →
    (∀ r, s.fault = some r → t.fault = some r) ∧
    (s.fault = none → ∀ r, t.fault = some r →
      r.info = .programTooLarge bytes.length ∧ r.pc = none ∧ s.started = false))

/-- R220, R221: every record of a cycle is of one of the causes R220 lists for its kind, with the code it lists;
the codes are labels of the spec's own (D8). The index recorded for a register is the operand byte of the
instruction in the window that is above 7, the second operand of MUL or ADD only if the first is not. -/
def Obligations.CycleFaultsHaveTheListedCauses : Prop :=
  (FaultKind.code .outOfBounds = 1 ∧ FaultKind.code .illegalInstruction = 2 ∧
    FaultKind.code .programTooLarge = 3 ∧ FaultKind.code .stackOverflow = 4 ∧
    FaultKind.code .stackUnderflow = 5) ∧
  (∀ (s t : State) (r : FaultRecord), s.run = .running → s.fault = none → s.pc.toNat ≤ 256 →
    step s = .next t → t.fault = some r →
    r.pc = some s.pc ∧
    ((r.info = .outOfBounds .memory 256 ∧ r.code = 1 ∧ 254 ≤ s.pc.toNat) ∨
     (∃ a x : Byte, r.info = .outOfBounds .register a.toNat ∧ r.code = 1 ∧ 8 ≤ a.toNat ∧
        (s.windowInstr = some (.ldi a x) ∨ s.windowInstr = some (.prn a) ∨
         s.windowInstr = some (.mul a x) ∨ s.windowInstr = some (.add a x) ∨
         s.windowInstr = some (.push a) ∨ s.windowInstr = some (.pop a) ∨ s.windowInstr = some (.call a) ∨
         (x.toNat < 8 ∧ (s.windowInstr = some (.mul x a) ∨ s.windowInstr = some (.add x a))))) ∨
     (r.info = .illegalInstruction (s.byteAt s.pc.toNat) s.pc ∧ r.code = 2 ∧ s.windowInstr = none) ∨
     (∃ a, r.info = .stackOverflow s.sp ∧ r.code = 4 ∧ s.cfg.stackCheck = true ∧
        (s.windowInstr = some (.push a) ∨ s.windowInstr = some (.call a))) ∨
     (r.info = .stackUnderflow s.sp ∧ r.code = 5 ∧ s.cfg.stackCheck = true ∧
        ((∃ a, s.windowInstr = some (.pop a)) ∨ s.windowInstr = some .ret))))

/-- R223: a cycle that faults leaves registers and output alone, and memory and SP too, but for PUSH and CALL
with a bad register index: both leave SP lowered, and CALL has stored the return address. -/
def Obligations.FaultLeavesOnlyTheListedEffects : Prop :=
  ∀ s t : State, s.mem.wf → s.run = .running → step s = .next t → t.run = .faulted →
    RegsSameExcept [] s t ∧ t.out = s.out ∧
    ((t.sp = s.sp ∧ MemSameExcept [] s t) ∨
     (∃ a : Byte, 8 ≤ a.toNat ∧ s.windowInstr = some (.push a) ∧ t.sp = decSp s.sp ∧ MemSameExcept [] s t) ∨
     (∃ a : Byte, 8 ≤ a.toNat ∧ s.windowInstr = some (.call a) ∧ t.sp = decSp s.sp ∧
        (t.byteAt t.sp.toNat).toNat = s.pc.toNat + 2 ∧ MemSameExcept [t.sp.toNat] s t))

/-- R226: the first failing sub-step is the one reported. An illegal byte at 254 or 255 reports `OutOfBounds`; MUL
and ADD with two bad indices report the first; a push or call that the check stops reports `StackOverflow`, and a
pop `StackUnderflow`, even with a bad index. -/
def Obligations.FirstFailingSubStepIsReported : Prop :=
  (∀ s t : State, s.run = .running → s.pc.toNat = 254 ∨ s.pc.toNat = 255 →
    (∀ m, s.cfg.opcodes.byte m ≠ s.byteAt s.pc.toNat) → step s = .next t →
    FaultedWith (.outOfBounds .memory 256) s t) ∧
  (∀ (s t : State) (a b : Byte), 8 ≤ a.toNat → 8 ≤ b.toNat →
    exec (.mul a b) s = .next t ∨ exec (.add a b) s = .next t →
    FaultedWith (.outOfBounds .register a.toNat) s t) ∧
  (∀ (s t : State) (a : Byte), 8 ≤ a.toNat → s.cfg.stackCheck = true → s.sp.toNat ≤ s.cfg.stackLimit.toNat →
    exec (.push a) s = .next t ∨ exec (.call a) s = .next t → FaultedWith (.stackOverflow s.sp) s t) ∧
  (∀ (s t : State) (a : Byte), 8 ≤ a.toNat → s.cfg.stackCheck = true → s.cfg.spInit.toNat ≤ s.sp.toNat →
    exec (.pop a) s = .next t → FaultedWith (.stackUnderflow s.sp) s t)

/-- R170: with the check on, PUSH and CALL raise `StackOverflow` at or below STACK_LIMIT, POP and RET raise
`StackUnderflow` at or above SP_INIT, before any state changes and with SP before the instruction; then SP
stays within STACK_LIMIT to SP_INIT and never wraps. With the check off, the default, neither is raised. -/
def Obligations.StackCheckConfinesSp : Prop :=
  (∀ (s : State) (i : Instr), s.cfg.stackCheck = true → s.sp.toNat ≤ s.cfg.stackLimit.toNat →
    (∃ a, i = .push a ∨ i = .call a) →
    exec i s = .next { s with
      run := .faulted, fault := some { info := .stackOverflow s.sp, pc := some s.pc } }) ∧
  (∀ (s : State) (i : Instr), s.cfg.stackCheck = true → s.cfg.spInit.toNat ≤ s.sp.toNat →
    (i = .ret ∨ ∃ a, i = .pop a) →
    exec i s = .next { s with
      run := .faulted, fault := some { info := .stackUnderflow s.sp, pc := some s.pc } }) ∧
  (∀ s t : State, s.Inv → s.cfg.stackCheck = true → step s = .next t →
    s.cfg.stackLimit.toNat ≤ t.sp.toNat ∧ t.sp.toNat ≤ s.cfg.spInit.toNat ∧
    t.sp.toNat ≤ s.sp.toNat + 1 ∧ s.sp.toNat ≤ t.sp.toNat + 1) ∧
  (∀ (s t : State) (i : Instr) (r : FaultRecord), s.cfg.stackCheck = false → s.fault = none →
    exec i s = .next t → t.fault = some r → r.kind ≠ .stackOverflow ∧ r.kind ≠ .stackUnderflow) ∧
  State.reset.cfg.stackCheck = false ∧
  (∀ cfg : Config, cfg.wf → cfg.stackLimit.toNat ≤ cfg.spInit.toNat)

/-- No step changes the parameters, and a step of a running machine is a cycle that has begun (log entries 1
and 4; R6, R263). -/
def Obligations.StepKeepsTheParameters : Prop :=
  ∀ s t : State, step s = .next t →
    t.cfg = s.cfg ∧ (s.started = true → t.started = true) ∧ (s.run = .running → t.started = true)

/-- R82, R88, R170: an instruction of the assembler syntax, whose register operands are R0 to R7, raises nothing
while the stack check is off. -/
def Obligations.WellFormedInstructionNeverFaults : Prop :=
  ∀ (s : State) (i : Instr), i.wellFormed = true → s.cfg.stackCheck = false → s.run = .running →
    ∃ t, exec i s = .next t ∧ t.run ≠ .faulted ∧ t.fault = s.fault

/-! ### Laws of pairs of instructions -/

/-- R172, R173: a push followed by a pop copies the pushed register to the popped one and restores SP; the one
other lasting effect is the byte below the old SP. With one register the pair leaves every register as it was. -/
def Obligations.PushThenPopCopies : Prop :=
  ∀ (s : State) (a b : Byte) (ha : a.toNat < 8) (hb : b.toNat < 8), s.mem.wf → s.pc.toNat ≤ 251 →
    (s.cfg.stackCheck = true → s.cfg.stackLimit.toNat < s.sp.toNat ∧ s.sp.toNat ≤ s.cfg.spInit.toNat) →
    ∃ t u, exec (.push a) s = .next t ∧ exec (.pop b) t = .next u ∧
      u.reg ⟨b.toNat, hb⟩ = s.reg ⟨a.toNat, ha⟩ ∧ RegsSameExcept [b.toNat] s u ∧ u.sp = s.sp ∧
      u.byteAt ((s.sp.toNat + 255) % 256) = s.reg ⟨a.toNat, ha⟩ ∧
      MemSameExcept [(s.sp.toNat + 255) % 256] s u ∧ u.pc.toNat = s.pc.toNat + 4 ∧
      ReportSame s u ∧ (a = b → RegsSameExcept [] s u)

/-- R190: a call followed at once by a return resumes after the call's two bytes with SP as it was, for every
target and every SP. -/
def Obligations.CallThenRetResumes : Prop :=
  ∀ (s : State) (a : Byte), a.toNat < 8 → s.mem.wf → s.pc.toNat ≤ 253 →
    (s.cfg.stackCheck = true → s.cfg.stackLimit.toNat < s.sp.toNat ∧ s.sp.toNat ≤ s.cfg.spInit.toNat) →
    ∃ t u, exec (.call a) s = .next t ∧ exec .ret t = .next u ∧
      u.pc.toNat = s.pc.toNat + 2 ∧ u.sp = s.sp ∧ RegsSameExcept [] s u ∧
      MemSameExcept [(s.sp.toNat + 255) % 256] s u ∧ ReportSame s u

/-- R191: a push followed by a return jumps to the register's value and leaves SP as it was. -/
def Obligations.PushThenRetJumps : Prop :=
  ∀ (s : State) (a : Byte) (h : a.toNat < 8), s.mem.wf →
    (s.cfg.stackCheck = true → s.cfg.stackLimit.toNat < s.sp.toNat ∧ s.sp.toNat ≤ s.cfg.spInit.toNat) →
    ∃ t u, exec (.push a) s = .next t ∧ exec .ret t = .next u ∧
      u.pc.toNat = (s.reg ⟨a.toNat, h⟩).toNat ∧ u.sp = s.sp ∧ RegsSameExcept [] s u ∧
      u.byteAt ((s.sp.toNat + 255) % 256) = s.reg ⟨a.toNat, h⟩ ∧
      MemSameExcept [(s.sp.toNat + 255) % 256] s u ∧ ReportSame s u

/-! ### Code that the stack overwrites -/

/-- R64, R271: a byte that a PUSH stores where the next cycle fetches is the opcode byte that cycle decodes. -/
def Obligations.PushedByteIsFetchedNext : Prop :=
  ∀ (s t u : State) (a : Byte) (h : a.toNat < 8), s.mem.wf → s.run = .running → s.pc.toNat ≤ 251 →
    s.windowInstr = some (.push a) → s.cfg.stackCheck = false →
    (s.sp.toNat + 255) % 256 = s.pc.toNat + 2 → step s = .next t → step t = .next u →
    t.pc.toNat = s.pc.toNat + 2 ∧ u.ir = s.reg ⟨a.toNat, h⟩

/-- R66: a CALL whose push lands on its own operand byte jumps through the register the latched byte named. -/
def Obligations.LatchedOperandSurvivesTheStore : Prop :=
  ∀ (s : State) (a : Byte) (h : a.toNat < 8), s.mem.wf → s.run = .running →
    s.windowInstr = some (.call a) → s.cfg.stackCheck = false →
    (s.sp.toNat + 255) % 256 = s.pc.toNat + 1 →
    ∃ t, step s = .next t ∧ (t.byteAt (s.pc.toNat + 1)).toNat = s.pc.toNat + 2 ∧
      t.pc.toNat = (s.reg ⟨a.toNat, h⟩).toNat

/-! ### What an instruction's result does not depend on -/

/-- R30: LDI, PRN, MUL, ADD and HLT neither read nor write SP: with another SP they do the same. -/
def Obligations.RegisterInstructionsIgnoreSp : Prop :=
  ∀ (s t : State) (i : Instr) (x : Byte), exec i s = .next t →
    (i = .hlt ∨ (∃ a, i = .prn a) ∨ ∃ a y, i = .ldi a y ∨ i = .mul a y ∨ i = .add a y) →
    exec i (s.setSp x) = .next (t.setSp x)

/-- R22, R27: SP is not register 7. A stack instruction that does not name register 7 does the same whatever
register 7 holds, and leaves it; LDI, MUL and ADD to register 7 leave SP. -/
def Obligations.Register7IsNotSp : Prop :=
  (∀ (s t : State) (i : Instr) (v : Byte), exec i s = .next t →
    (i = .ret ∨ ∃ a : Byte, a.toNat ≠ 7 ∧ (i = .push a ∨ i = .pop a ∨ i = .call a)) →
    exec i (s.setReg 7 v) = .next (t.setReg 7 v)) ∧
  (∀ (s t : State) (i : Instr) (x : Byte), exec i s = .next t →
    i = .ldi 7 x ∨ i = .mul 7 x ∨ i = .add 7 x → t.sp = s.sp)

/-- R6, R84, D1: once an instruction is decoded nothing depends on the opcode bytes: under another assignment it
does the same. -/
def Obligations.OpcodeBytesMatterToDecodingOnly : Prop :=
  ∀ (s t : State) (i : Instr) (o : OpcodeMap), exec i s = .next t →
    exec i { s with cfg := { s.cfg with opcodes := o } } =
      .next { t with cfg := { t.cfg with opcodes := o } }

/-- R151: the low 8 bits of a two's-complement product or sum are MUL's and ADD's results. -/
def Obligations.ArithmeticAgreesWithTwosComplement : Prop :=
  ∀ (s t u : State) (a b : Byte) (ha : a.toNat < 8) (hb : b.toNat < 8),
    exec (.mul a b) s = .next t → exec (.add a b) s = .next u →
    ((t.reg ⟨a.toNat, ha⟩).toInt - (s.reg ⟨a.toNat, ha⟩).toInt * (s.reg ⟨b.toNat, hb⟩).toInt) % 256 = 0 ∧
    ((u.reg ⟨a.toNat, ha⟩).toInt - ((s.reg ⟨a.toNat, ha⟩).toInt + (s.reg ⟨b.toNat, hb⟩).toInt)) % 256 = 0

/-! ### Memory -/

/-- R57, R61: a read returns the last byte written at its address, and a write changes no other; writes within 0
to 255 keep the canonical form. -/
def Obligations.MemoryReadsTheLastWrite : Prop :=
  ∀ (m : Memory) (addr : Nat) (v : Byte), m.wf →
    (∀ k, Memory.read (m.write addr v) k = if k = addr then v else m.read k) ∧
    (addr ≤ 255 → Memory.wf (m.write addr v))

/-- Two memories in canonical form that read the same at 0 to 255 are the same data (the model's form, log
entry 3; R50). -/
def Obligations.CanonicalMemoryIsDeterminedByItsBytes : Prop :=
  ∀ m n : Memory, m.wf → n.wf → (∀ addr, addr ≤ 255 → m.read addr = n.read addr) → m = n

/-! ### The host's operations -/

/-- R262: before the first cycle, `load` of at most 256 bytes writes them to addresses 0 on and nothing else, and
doing it again changes nothing. -/
def Obligations.LoadWritesExactlyThePrefix : Prop :=
  ∀ (bytes : List Byte) (s : State), s.mem.wf → s.started = false → s.run = .running → bytes.length ≤ 256 →
    ∃ t, load bytes s = .next t ∧
      (∀ k (h : k < bytes.length), t.byteAt k = bytes[k]) ∧
      (∀ k, bytes.length ≤ k → t.byteAt k = s.byteAt k) ∧
      RegsSameExcept [] s t ∧ t.sp = s.sp ∧ t.pc = s.pc ∧ ReportSame s t ∧ FixedPartsSame s t ∧
      load bytes t = .next t

/-- R263: `load` is refused after the first cycle; before it, on a running instance, it may be repeated, each call
writing its own prefix and no other byte; and an empty one changes nothing. Whether a cycle has begun is the
model's field `started` (log entry 4). The last clause is the model's choice of log entry 10 and not R263's: on
an instance that an oversized `load` has faulted, a further `load` answers the state unchanged. -/
def Obligations.LoadOnlyBeforeTheFirstCycle : Prop :=
  (∀ cfg : Config, (State.newMachine cfg).started = false) ∧
  (∀ s t : State, s.run = .running → step s = .next t →
    ∀ bytes, load bytes t = .refused .loadAfterFirstCycle) ∧
  (∀ (bytes more : List Byte) (s : State), s.mem.wf → s.started = false → s.run = .running →
    bytes.length ≤ 256 → more.length ≤ 256 →
    ∃ t u, load bytes s = .next t ∧ load more t = .next u ∧
      (∀ k (h : k < bytes.length), t.byteAt k = bytes[k]) ∧
      (∀ k, bytes.length ≤ k → t.byteAt k = s.byteAt k) ∧
      (∀ k (h : k < more.length), u.byteAt k = more[k]) ∧
      (∀ k, more.length ≤ k → u.byteAt k = t.byteAt k)) ∧
  (∀ s : State, s.started = false → load [] s = .next s) ∧
  (∀ (bytes more : List Byte) (s t : State), s.started = false → s.run = .running → 256 < bytes.length →
    load bytes s = .next t → load more t = .next t)

/-- R264: `load` of more than 256 bytes writes no cell, faults the instance with `ProgramTooLarge(N)` and no PC,
and no cycle ever executes. -/
def Obligations.OversizedLoadFaults : Prop :=
  ∀ (bytes : List Byte) (s : State), s.started = false → s.run = .running → 256 < bytes.length →
    ∃ t, load bytes s = .next t ∧ t.run = .faulted ∧
      t.fault = some { info := .programTooLarge bytes.length, pc := none } ∧
      MemSameExcept [] s t ∧ RegsSameExcept [] s t ∧ t.sp = s.sp ∧ t.pc = s.pc ∧ t.out = s.out ∧
      FixedPartsSame s t ∧ ∀ n, Sys2Proof.core.run n t = .next t

/-- R266, R268: running for some cycles and then for more is running for their sum; a run stops at the first
terminal state; and it is the host's repeated step. -/
def Obligations.RunIsRepeatedStep : Prop :=
  (∀ (m n : Nat) (s : State), runFor (m + n) s = runFor n (runFor m s)) ∧
  (∀ (n : Nat) (s : State), s.ended → runFor n s = s) ∧
  (∀ (n : Nat) (s : State), Sys2Proof.core.run n s = .next (runFor n s))

/-- R90's table: a statement of a mnemonic with its registers, and for LDI the byte of its value, assembles to the
bytes of that mnemonic's instruction with those operand bytes, which is well-formed and decodes to itself
whatever follows; `DB` assembles to its value's byte; a number's byte is itself and a label's its byte address
(the first definition of a name counts: log entry 11); and a value without a byte gives no bytes. -/
def Obligations.AssembledStatementDecodes : Prop :=
  (∀ (o : OpcodeMap) (ls : Asm.Labels) (st : Asm.Stmt) (i : Instr), o.wf →
    (match st with
      | .ldi a v => ∃ w, v.byte ls = some w ∧ i = .ldi (BitVec.ofNat 8 a.val) w
      | .prn a   => i = .prn (BitVec.ofNat 8 a.val)
      | .mul a b => i = .mul (BitVec.ofNat 8 a.val) (BitVec.ofNat 8 b.val)
      | .add a b => i = .add (BitVec.ofNat 8 a.val) (BitVec.ofNat 8 b.val)
      | .push a  => i = .push (BitVec.ofNat 8 a.val)
      | .pop a   => i = .pop (BitVec.ofNat 8 a.val)
      | .call a  => i = .call (BitVec.ofNat 8 a.val)
      | .ret     => i = .ret
      | .hlt     => i = .hlt
      | .db _    => False) →
    st.bytes o ls = some (o.byte i.mnemonic :: i.operands) ∧ st.length = 1 + i.operands.length ∧
    i.wellFormed = true ∧
    ∀ x y : Byte, decode o (o.byte i.mnemonic :: i.operands ++ [x, y]) = .ok i) ∧
  (∀ (o : OpcodeMap) (ls : Asm.Labels) (v : Asm.Value) (w : Byte), v.byte ls = some w →
    (Asm.Stmt.db v).bytes o ls = some [w] ∧ (Asm.Stmt.db v).length = 1) ∧
  (∀ (o : OpcodeMap) (ls : Asm.Labels) (a : RegIx) (v : Asm.Value), v.byte ls = none →
    (Asm.Stmt.ldi a v).bytes o ls = none ∧ (Asm.Stmt.db v).bytes o ls = none) ∧
  (∀ (ls : Asm.Labels) (v : Byte), (Asm.Value.num v).byte ls = some v) ∧
  (∀ (ls more : Asm.Labels) (name : Asm.Chars) (addr : Nat), (∀ d ∈ ls, d.1 ≠ name) →
    (Asm.Value.label name).byte (ls ++ (name, addr) :: more) =
      if addr < 256 then some (BitVec.ofNat 8 addr) else none)
end

