-- ==== Sys2Proof/Laws/Decode.lean ====
section
/-! SUPPORT. The laws of decoding and encoding. -/

namespace Sys2Proof

theorem Mnemonic.mem_all (m : Mnemonic) : m ∈ Mnemonic.all := by cases m <;> decide

/-- The nine bytes of a legal map, as a map from mnemonics (R85). -/
theorem OpcodeMap.byte_injective {o : OpcodeMap} (h : o.wf) {m n : Mnemonic} (e : o.byte m = o.byte n) :
    m = n := by
  simp only [OpcodeMap.wf, List.nodup_cons, List.mem_cons, List.not_mem_nil, not_or] at h
  cases m <;> cases n <;> simp_all [OpcodeMap.byte]

/-- A lookup that finds a mnemonic finds one whose byte it was given. -/
theorem OpcodeMap.byte_of_lookup {o : OpcodeMap} {ir : Byte} {m : Mnemonic} (h : o.lookup ir = some m) :
    o.byte m = ir := by
  have := List.find?_some h
  simpa using this

/-- A lookup finds nothing exactly where no mnemonic has the byte (R88). -/
theorem OpcodeMap.lookup_eq_none {o : OpcodeMap} {ir : Byte} : o.lookup ir = none ↔ ∀ m, o.byte m ≠ ir := by
  simp only [OpcodeMap.lookup, List.find?_eq_none, beq_iff_eq]
  exact ⟨fun h m => h m m.mem_all, fun h m _ => h m⟩

/-- Under a legal map the lookup of a mnemonic's byte finds that mnemonic (R85). -/
theorem OpcodeMap.lookup_byte {o : OpcodeMap} (h : o.wf) (m : Mnemonic) : o.lookup (o.byte m) = some m := by
  cases hl : o.lookup (o.byte m) with
  | none => exact absurd rfl (OpcodeMap.lookup_eq_none.mp hl m)
  | some n => exact congrArg some (OpcodeMap.byte_injective h (OpcodeMap.byte_of_lookup hl))

/-- What decoding a window answers. -/
theorem decodeWindow_eq_some {o : OpcodeMap} {ir a b : Byte} {i : Instr} :
    decodeWindow o ir a b = some i ↔ ∃ m, o.lookup ir = some m ∧ instrOf m a b = i := by
  simp [decodeWindow]

theorem decodeWindow_eq_none {o : OpcodeMap} {ir a b : Byte} :
    decodeWindow o ir a b = none ↔ ∀ m, o.byte m ≠ ir := by
  simp [decodeWindow, OpcodeMap.lookup_eq_none]

/-- Under a legal map a mnemonic's byte decodes to its format's instruction (R81, R84). -/
theorem decodeWindow_byte {o : OpcodeMap} (h : o.wf) (m : Mnemonic) (a b : Byte) :
    decodeWindow o (o.byte m) a b = some (instrOf m a b) := by
  simp [decodeWindow, OpcodeMap.lookup_byte h]

@[simp] theorem instrOf_mnemonic (m : Mnemonic) (a b : Byte) : (instrOf m a b).mnemonic = m := by
  cases m <;> rfl

/-- The operand bytes are all of an instruction but its opcode byte (R81). -/
theorem Instr.length_operands (i : Instr) : i.operands.length + 1 = i.length := by
  cases i <;> rfl

theorem length_encode (o : OpcodeMap) (i : Instr) : (encode o i).length = i.length := by
  simp [encode, Instr.length_operands]

/-- Decoding a list of three or more bytes is decoding its window. -/
theorem decode_cons (o : OpcodeMap) (ir a b : Byte) (rest : List Byte) :
    decode o (ir :: a :: b :: rest) =
      match decodeWindow o ir a b with
      | some i => .ok i
      | none   => .error (.illegalOpcode ir) := rfl

theorem defaultOpcodes_wf : defaultOpcodes.wf := by decide

end Sys2Proof
end

