-- ==== Sys2Proof/Laws/State.lean ====
section
/-! SUPPORT. One lemma per field of State for every named update, true by rfl. -/

namespace Sys2Proof.Machine

variable (s : State)

/-! ### `State.setReg` -/

@[simp] theorem State.setReg_regs (i : RegIx) (v : Byte) : (s.setReg i v).regs = s.regs.set i v := rfl
@[simp] theorem State.setReg_sp (i : RegIx) (v : Byte) : (s.setReg i v).sp = s.sp := rfl
@[simp] theorem State.setReg_pc (i : RegIx) (v : Byte) : (s.setReg i v).pc = s.pc := rfl
@[simp] theorem State.setReg_mem (i : RegIx) (v : Byte) : (s.setReg i v).mem = s.mem := rfl
@[simp] theorem State.setReg_run (i : RegIx) (v : Byte) : (s.setReg i v).run = s.run := rfl
@[simp] theorem State.setReg_out (i : RegIx) (v : Byte) : (s.setReg i v).out = s.out := rfl
@[simp] theorem State.setReg_fault (i : RegIx) (v : Byte) : (s.setReg i v).fault = s.fault := rfl
@[simp] theorem State.setReg_ir (i : RegIx) (v : Byte) : (s.setReg i v).ir = s.ir := rfl
@[simp] theorem State.setReg_opA (i : RegIx) (v : Byte) : (s.setReg i v).opA = s.opA := rfl
@[simp] theorem State.setReg_opB (i : RegIx) (v : Byte) : (s.setReg i v).opB = s.opB := rfl
@[simp] theorem State.setReg_started (i : RegIx) (v : Byte) : (s.setReg i v).started = s.started := rfl
@[simp] theorem State.setReg_cfg (i : RegIx) (v : Byte) : (s.setReg i v).cfg = s.cfg := rfl
@[simp] theorem State.setReg_byteAt (i : RegIx) (v : Byte) (k : Nat) : (s.setReg i v).byteAt k = s.byteAt k := rfl

/-! ### `State.setByte` -/

@[simp] theorem State.setByte_regs (addr : Nat) (v : Byte) : (s.setByte addr v).regs = s.regs := rfl
@[simp] theorem State.setByte_sp (addr : Nat) (v : Byte) : (s.setByte addr v).sp = s.sp := rfl
@[simp] theorem State.setByte_pc (addr : Nat) (v : Byte) : (s.setByte addr v).pc = s.pc := rfl
@[simp] theorem State.setByte_mem (addr : Nat) (v : Byte) : (s.setByte addr v).mem = s.mem.write addr v := rfl
@[simp] theorem State.setByte_run (addr : Nat) (v : Byte) : (s.setByte addr v).run = s.run := rfl
@[simp] theorem State.setByte_out (addr : Nat) (v : Byte) : (s.setByte addr v).out = s.out := rfl
@[simp] theorem State.setByte_fault (addr : Nat) (v : Byte) : (s.setByte addr v).fault = s.fault := rfl
@[simp] theorem State.setByte_ir (addr : Nat) (v : Byte) : (s.setByte addr v).ir = s.ir := rfl
@[simp] theorem State.setByte_opA (addr : Nat) (v : Byte) : (s.setByte addr v).opA = s.opA := rfl
@[simp] theorem State.setByte_opB (addr : Nat) (v : Byte) : (s.setByte addr v).opB = s.opB := rfl
@[simp] theorem State.setByte_started (addr : Nat) (v : Byte) : (s.setByte addr v).started = s.started := rfl
@[simp] theorem State.setByte_cfg (addr : Nat) (v : Byte) : (s.setByte addr v).cfg = s.cfg := rfl
@[simp] theorem State.setByte_reg (addr : Nat) (v : Byte) (j : RegIx) : (s.setByte addr v).reg j = s.reg j := rfl

/-! ### `State.setSp` -/

@[simp] theorem State.setSp_regs (v : Byte) : (s.setSp v).regs = s.regs := rfl
@[simp] theorem State.setSp_sp (v : Byte) : (s.setSp v).sp = v := rfl
@[simp] theorem State.setSp_pc (v : Byte) : (s.setSp v).pc = s.pc := rfl
@[simp] theorem State.setSp_mem (v : Byte) : (s.setSp v).mem = s.mem := rfl
@[simp] theorem State.setSp_run (v : Byte) : (s.setSp v).run = s.run := rfl
@[simp] theorem State.setSp_out (v : Byte) : (s.setSp v).out = s.out := rfl
@[simp] theorem State.setSp_fault (v : Byte) : (s.setSp v).fault = s.fault := rfl
@[simp] theorem State.setSp_ir (v : Byte) : (s.setSp v).ir = s.ir := rfl
@[simp] theorem State.setSp_opA (v : Byte) : (s.setSp v).opA = s.opA := rfl
@[simp] theorem State.setSp_opB (v : Byte) : (s.setSp v).opB = s.opB := rfl
@[simp] theorem State.setSp_started (v : Byte) : (s.setSp v).started = s.started := rfl
@[simp] theorem State.setSp_cfg (v : Byte) : (s.setSp v).cfg = s.cfg := rfl
@[simp] theorem State.setSp_reg (v : Byte) (j : RegIx) : (s.setSp v).reg j = s.reg j := rfl
@[simp] theorem State.setSp_byteAt (v : Byte) (k : Nat) : (s.setSp v).byteAt k = s.byteAt k := rfl

/-! ### `State.setPc` -/

@[simp] theorem State.setPc_regs (n : Nat) : (s.setPc n).regs = s.regs := rfl
@[simp] theorem State.setPc_sp (n : Nat) : (s.setPc n).sp = s.sp := rfl
@[simp] theorem State.setPc_pc (n : Nat) : (s.setPc n).pc = BitVec.ofNat 9 n := rfl
@[simp] theorem State.setPc_mem (n : Nat) : (s.setPc n).mem = s.mem := rfl
@[simp] theorem State.setPc_run (n : Nat) : (s.setPc n).run = s.run := rfl
@[simp] theorem State.setPc_out (n : Nat) : (s.setPc n).out = s.out := rfl
@[simp] theorem State.setPc_fault (n : Nat) : (s.setPc n).fault = s.fault := rfl
@[simp] theorem State.setPc_ir (n : Nat) : (s.setPc n).ir = s.ir := rfl
@[simp] theorem State.setPc_opA (n : Nat) : (s.setPc n).opA = s.opA := rfl
@[simp] theorem State.setPc_opB (n : Nat) : (s.setPc n).opB = s.opB := rfl
@[simp] theorem State.setPc_started (n : Nat) : (s.setPc n).started = s.started := rfl
@[simp] theorem State.setPc_cfg (n : Nat) : (s.setPc n).cfg = s.cfg := rfl
@[simp] theorem State.setPc_reg (n : Nat) (j : RegIx) : (s.setPc n).reg j = s.reg j := rfl
@[simp] theorem State.setPc_byteAt (n : Nat) (k : Nat) : (s.setPc n).byteAt k = s.byteAt k := rfl

/-! ### `State.emit` -/

@[simp] theorem State.emit_regs (v : Byte) : (s.emit v).regs = s.regs := rfl
@[simp] theorem State.emit_sp (v : Byte) : (s.emit v).sp = s.sp := rfl
@[simp] theorem State.emit_pc (v : Byte) : (s.emit v).pc = s.pc := rfl
@[simp] theorem State.emit_mem (v : Byte) : (s.emit v).mem = s.mem := rfl
@[simp] theorem State.emit_run (v : Byte) : (s.emit v).run = s.run := rfl
@[simp] theorem State.emit_out (v : Byte) : (s.emit v).out = s.out ++ [v] := rfl
@[simp] theorem State.emit_fault (v : Byte) : (s.emit v).fault = s.fault := rfl
@[simp] theorem State.emit_ir (v : Byte) : (s.emit v).ir = s.ir := rfl
@[simp] theorem State.emit_opA (v : Byte) : (s.emit v).opA = s.opA := rfl
@[simp] theorem State.emit_opB (v : Byte) : (s.emit v).opB = s.opB := rfl
@[simp] theorem State.emit_started (v : Byte) : (s.emit v).started = s.started := rfl
@[simp] theorem State.emit_cfg (v : Byte) : (s.emit v).cfg = s.cfg := rfl
@[simp] theorem State.emit_reg (v : Byte) (j : RegIx) : (s.emit v).reg j = s.reg j := rfl
@[simp] theorem State.emit_byteAt (v : Byte) (k : Nat) : (s.emit v).byteAt k = s.byteAt k := rfl

/-! ### `State.halt` -/

@[simp] theorem State.halt_regs : s.halt.regs = s.regs := rfl
@[simp] theorem State.halt_sp : s.halt.sp = s.sp := rfl
@[simp] theorem State.halt_pc : s.halt.pc = s.pc := rfl
@[simp] theorem State.halt_mem : s.halt.mem = s.mem := rfl
@[simp] theorem State.halt_run : s.halt.run = .halted := rfl
@[simp] theorem State.halt_out : s.halt.out = s.out := rfl
@[simp] theorem State.halt_fault : s.halt.fault = s.fault := rfl
@[simp] theorem State.halt_ir : s.halt.ir = s.ir := rfl
@[simp] theorem State.halt_opA : s.halt.opA = s.opA := rfl
@[simp] theorem State.halt_opB : s.halt.opB = s.opB := rfl
@[simp] theorem State.halt_started : s.halt.started = s.started := rfl
@[simp] theorem State.halt_cfg : s.halt.cfg = s.cfg := rfl
@[simp] theorem State.halt_reg (j : RegIx) : s.halt.reg j = s.reg j := rfl
@[simp] theorem State.halt_byteAt (k : Nat) : s.halt.byteAt k = s.byteAt k := rfl

/-! ### `State.latch` -/

@[simp] theorem State.latch_regs (x y z : Byte) : (s.latch x y z).regs = s.regs := rfl
@[simp] theorem State.latch_sp (x y z : Byte) : (s.latch x y z).sp = s.sp := rfl
@[simp] theorem State.latch_pc (x y z : Byte) : (s.latch x y z).pc = s.pc := rfl
@[simp] theorem State.latch_mem (x y z : Byte) : (s.latch x y z).mem = s.mem := rfl
@[simp] theorem State.latch_run (x y z : Byte) : (s.latch x y z).run = s.run := rfl
@[simp] theorem State.latch_out (x y z : Byte) : (s.latch x y z).out = s.out := rfl
@[simp] theorem State.latch_fault (x y z : Byte) : (s.latch x y z).fault = s.fault := rfl
@[simp] theorem State.latch_ir (x y z : Byte) : (s.latch x y z).ir = x := rfl
@[simp] theorem State.latch_opA (x y z : Byte) : (s.latch x y z).opA = y := rfl
@[simp] theorem State.latch_opB (x y z : Byte) : (s.latch x y z).opB = z := rfl
@[simp] theorem State.latch_started (x y z : Byte) : (s.latch x y z).started = s.started := rfl
@[simp] theorem State.latch_cfg (x y z : Byte) : (s.latch x y z).cfg = s.cfg := rfl
@[simp] theorem State.latch_reg (x y z : Byte) (j : RegIx) : (s.latch x y z).reg j = s.reg j := rfl
@[simp] theorem State.latch_byteAt (x y z : Byte) (k : Nat) : (s.latch x y z).byteAt k = s.byteAt k := rfl

/-! ### `State.begin` -/

@[simp] theorem State.begin_regs : s.begin.regs = s.regs := rfl
@[simp] theorem State.begin_sp : s.begin.sp = s.sp := rfl
@[simp] theorem State.begin_pc : s.begin.pc = s.pc := rfl
@[simp] theorem State.begin_mem : s.begin.mem = s.mem := rfl
@[simp] theorem State.begin_run : s.begin.run = s.run := rfl
@[simp] theorem State.begin_out : s.begin.out = s.out := rfl
@[simp] theorem State.begin_fault : s.begin.fault = s.fault := rfl
@[simp] theorem State.begin_ir : s.begin.ir = s.ir := rfl
@[simp] theorem State.begin_opA : s.begin.opA = s.opA := rfl
@[simp] theorem State.begin_opB : s.begin.opB = s.opB := rfl
@[simp] theorem State.begin_started : s.begin.started = true := rfl
@[simp] theorem State.begin_cfg : s.begin.cfg = s.cfg := rfl
@[simp] theorem State.begin_reg (j : RegIx) : s.begin.reg j = s.reg j := rfl
@[simp] theorem State.begin_byteAt (k : Nat) : s.begin.byteAt k = s.byteAt k := rfl

/-! ### `State.faultWith` -/

@[simp] theorem State.faultWith_regs (f : FaultInfo) (p : Option PcWord) : (s.faultWith f p).regs = s.regs := rfl
@[simp] theorem State.faultWith_sp (f : FaultInfo) (p : Option PcWord) : (s.faultWith f p).sp = s.sp := rfl
@[simp] theorem State.faultWith_pc (f : FaultInfo) (p : Option PcWord) : (s.faultWith f p).pc = s.pc := rfl
@[simp] theorem State.faultWith_mem (f : FaultInfo) (p : Option PcWord) : (s.faultWith f p).mem = s.mem := rfl
@[simp] theorem State.faultWith_run (f : FaultInfo) (p : Option PcWord) : (s.faultWith f p).run = .faulted := rfl
@[simp] theorem State.faultWith_out (f : FaultInfo) (p : Option PcWord) : (s.faultWith f p).out = s.out := rfl
@[simp] theorem State.faultWith_fault (f : FaultInfo) (p : Option PcWord) : (s.faultWith f p).fault = some { info := f, pc := p } := rfl
@[simp] theorem State.faultWith_ir (f : FaultInfo) (p : Option PcWord) : (s.faultWith f p).ir = s.ir := rfl
@[simp] theorem State.faultWith_opA (f : FaultInfo) (p : Option PcWord) : (s.faultWith f p).opA = s.opA := rfl
@[simp] theorem State.faultWith_opB (f : FaultInfo) (p : Option PcWord) : (s.faultWith f p).opB = s.opB := rfl
@[simp] theorem State.faultWith_started (f : FaultInfo) (p : Option PcWord) : (s.faultWith f p).started = s.started := rfl
@[simp] theorem State.faultWith_cfg (f : FaultInfo) (p : Option PcWord) : (s.faultWith f p).cfg = s.cfg := rfl
@[simp] theorem State.faultWith_reg (f : FaultInfo) (p : Option PcWord) (j : RegIx) : (s.faultWith f p).reg j = s.reg j := rfl
@[simp] theorem State.faultWith_byteAt (f : FaultInfo) (p : Option PcWord) (k : Nat) : (s.faultWith f p).byteAt k = s.byteAt k := rfl

/-! ### `State.raised` -/

@[simp] theorem State.raised_regs (f : FaultInfo) : (s.raised f).regs = s.regs := rfl
@[simp] theorem State.raised_sp (f : FaultInfo) : (s.raised f).sp = s.sp := rfl
@[simp] theorem State.raised_pc (f : FaultInfo) : (s.raised f).pc = s.pc := rfl
@[simp] theorem State.raised_mem (f : FaultInfo) : (s.raised f).mem = s.mem := rfl
@[simp] theorem State.raised_run (f : FaultInfo) : (s.raised f).run = .faulted := rfl
@[simp] theorem State.raised_out (f : FaultInfo) : (s.raised f).out = s.out := rfl
@[simp] theorem State.raised_fault (f : FaultInfo) : (s.raised f).fault = some { info := f, pc := some s.pc } := rfl
@[simp] theorem State.raised_ir (f : FaultInfo) : (s.raised f).ir = s.ir := rfl
@[simp] theorem State.raised_opA (f : FaultInfo) : (s.raised f).opA = s.opA := rfl
@[simp] theorem State.raised_opB (f : FaultInfo) : (s.raised f).opB = s.opB := rfl
@[simp] theorem State.raised_started (f : FaultInfo) : (s.raised f).started = s.started := rfl
@[simp] theorem State.raised_cfg (f : FaultInfo) : (s.raised f).cfg = s.cfg := rfl
@[simp] theorem State.raised_reg (f : FaultInfo) (j : RegIx) : (s.raised f).reg j = s.reg j := rfl
@[simp] theorem State.raised_byteAt (f : FaultInfo) (k : Nat) : (s.raised f).byteAt k = s.byteAt k := rfl

/-! ### `State.spDown` -/

@[simp] theorem State.spDown_regs : s.spDown.regs = s.regs := rfl
@[simp] theorem State.spDown_sp : s.spDown.sp = decSp s.sp := rfl
@[simp] theorem State.spDown_pc : s.spDown.pc = s.pc := rfl
@[simp] theorem State.spDown_mem : s.spDown.mem = s.mem := rfl
@[simp] theorem State.spDown_run : s.spDown.run = s.run := rfl
@[simp] theorem State.spDown_out : s.spDown.out = s.out := rfl
@[simp] theorem State.spDown_fault : s.spDown.fault = s.fault := rfl
@[simp] theorem State.spDown_ir : s.spDown.ir = s.ir := rfl
@[simp] theorem State.spDown_opA : s.spDown.opA = s.opA := rfl
@[simp] theorem State.spDown_opB : s.spDown.opB = s.opB := rfl
@[simp] theorem State.spDown_started : s.spDown.started = s.started := rfl
@[simp] theorem State.spDown_cfg : s.spDown.cfg = s.cfg := rfl
@[simp] theorem State.spDown_reg (j : RegIx) : s.spDown.reg j = s.reg j := rfl
@[simp] theorem State.spDown_byteAt (k : Nat) : s.spDown.byteAt k = s.byteAt k := rfl

/-! ### `State.spUp` -/

@[simp] theorem State.spUp_regs : s.spUp.regs = s.regs := rfl
@[simp] theorem State.spUp_sp : s.spUp.sp = incSp s.sp := rfl
@[simp] theorem State.spUp_pc : s.spUp.pc = s.pc := rfl
@[simp] theorem State.spUp_mem : s.spUp.mem = s.mem := rfl
@[simp] theorem State.spUp_run : s.spUp.run = s.run := rfl
@[simp] theorem State.spUp_out : s.spUp.out = s.out := rfl
@[simp] theorem State.spUp_fault : s.spUp.fault = s.fault := rfl
@[simp] theorem State.spUp_ir : s.spUp.ir = s.ir := rfl
@[simp] theorem State.spUp_opA : s.spUp.opA = s.opA := rfl
@[simp] theorem State.spUp_opB : s.spUp.opB = s.opB := rfl
@[simp] theorem State.spUp_started : s.spUp.started = s.started := rfl
@[simp] theorem State.spUp_cfg : s.spUp.cfg = s.cfg := rfl
@[simp] theorem State.spUp_reg (j : RegIx) : s.spUp.reg j = s.reg j := rfl
@[simp] theorem State.spUp_byteAt (k : Nat) : s.spUp.byteAt k = s.byteAt k := rfl

/-! ### Registers -/

/-- A register after a write: the value written, or, for every other register, what it held. -/
theorem State.setReg_reg (i j : RegIx) (v : Byte) :
    (s.setReg i v).reg j = if i = j then v else s.reg j := by
  simp only [State.reg, setReg_regs, Fin.getElem_fin, Vector.getElem_set, Fin.ext_iff]

@[simp] theorem State.setReg_reg_self (i : RegIx) (v : Byte) : (s.setReg i v).reg i = v := by
  simp [State.setReg_reg]

theorem State.setReg_reg_ne {i j : RegIx} (h : j ≠ i) (v : Byte) : (s.setReg i v).reg j = s.reg j := by
  simp [State.setReg_reg, h.symm]

/-- States with the same registers, read one by one, have the same register file. -/
theorem State.regs_ext {s t : State} (h : ∀ j : RegIx, t.reg j = s.reg j) : t.regs = s.regs := by
  apply Vector.ext
  intro i hi
  exact h ⟨i, hi⟩

/-! ### The run state -/

theorem State.runningFlag_iff : s.runningFlag = true ↔ s.run = .running := by
  simp [State.runningFlag]

end Sys2Proof.Machine
end

