-- ==== Sys2Proof/Laws/Memory.lean ====
section
/-! SUPPORT. The laws of memory: a read after a write, and that every operation keeps the canonical form. -/

namespace Sys2Proof.Machine

@[simp] theorem Memory.read_nil (addr : Nat) : Memory.read [] addr = unlistedByte := rfl

theorem Memory.read_cons (c : Host.Cell) (m : Memory) (addr : Nat) :
    Memory.read (c :: m) addr = if c.1 = addr then c.2 else Memory.read m addr := rfl

/-- An address that no entry lists reads as the unlisted byte. -/
theorem Memory.read_of_not_listed {m : Memory} {addr : Nat} (h : ∀ c ∈ m, c.1 ≠ addr) :
    Memory.read m addr = unlistedByte := by
  induction m with
  | nil => rfl
  | cons c m ih =>
    rw [Memory.read_cons, if_neg (h c (by simp))]
    exact ih fun d hd => h d (by simp [hd])

/-- `consCell` in front of entries at other addresses reads as an entry there. -/
theorem Memory.read_consCell {m : Memory} {addr : Nat} (h : ∀ c ∈ m, c.1 ≠ addr) (v : Byte) (k : Nat) :
    Memory.read (Memory.consCell addr v m) k = if addr = k then v else Memory.read m k := by
  unfold Memory.consCell
  by_cases hv : v = unlistedByte
  · rw [if_pos hv]
    by_cases hk : addr = k
    · subst hk; rw [if_pos rfl, hv, Memory.read_of_not_listed h]
    · rw [if_neg hk]
  · rw [if_neg hv]; rfl

/-- The canonical form, one entry at a time. -/
theorem Memory.wf_cons {c : Host.Cell} {m : Memory} :
    Memory.wf (c :: m) ↔ (c.1 < 256 ∧ c.2 ≠ unlistedByte) ∧ (∀ d ∈ m, c.1 < d.1) ∧ Memory.wf m := by
  simp only [Memory.wf, List.pairwise_cons, List.mem_cons, forall_eq_or_imp]
  tauto

theorem Memory.wf_consCell {m : Memory} {addr : Nat} {v : Byte} (ha : addr < 256)
    (h : ∀ d ∈ m, addr < d.1) (hm : m.wf) : Memory.wf (Memory.consCell addr v m) := by
  unfold Memory.consCell
  split
  · exact hm
  · exact Memory.wf_cons.mpr ⟨⟨ha, ‹_›⟩, h, hm⟩

/-- Every entry after a write is at the written address or was there before. -/
theorem Memory.mem_write {m : Memory} {addr : Nat} {v : Byte} {c : Host.Cell}
    (h : c ∈ Memory.write m addr v) : c.1 = addr ∨ c ∈ m := by
  induction m with
  | nil => simp only [Memory.write, Memory.consCell] at h; split at h <;> simp_all
  | cons d m ih =>
    simp only [Memory.write, Memory.consCell] at h
    split at h
    · split at h <;> simp_all; aesop
    · split at h
      · split at h <;> simp_all; aesop
      · rcases List.mem_cons.mp h with h | h
        · simp [h]
        · rcases ih h with h | h <;> simp [h]

/-- A write within 0 to 255 keeps the canonical form. -/
theorem Memory.wf_write {m : Memory} (hm : m.wf) {addr : Nat} (ha : addr < 256) (v : Byte) :
    Memory.wf (m.write addr v) := by
  induction m with
  | nil => exact Memory.wf_consCell ha (by simp) hm
  | cons c m ih =>
    obtain ⟨hc, hlt, hm'⟩ := Memory.wf_cons.mp hm
    unfold Memory.write
    split
    · refine Memory.wf_consCell ha (fun d hd => ?_) hm
      rcases List.mem_cons.mp hd with rfl | hd
      · assumption
      · exact lt_trans ‹_› (hlt d hd)
    · split
      · subst_vars; exact Memory.wf_consCell ha hlt hm'
      · refine Memory.wf_cons.mpr ⟨hc, fun d hd => ?_, ih hm'⟩
        rcases Memory.mem_write hd with h | h
        · omega
        · exact hlt d h

/-- A read after a write: the byte written, or, at every other address, what was there. -/
theorem Memory.read_write {m : Memory} (hm : m.wf) (addr : Nat) (v : Byte) (k : Nat) :
    Memory.read (m.write addr v) k = if addr = k then v else Memory.read m k := by
  induction m with
  | nil => simpa [Memory.write] using Memory.read_consCell (m := []) (by simp) v k
  | cons c m ih =>
    obtain ⟨hc, hlt, hm'⟩ := Memory.wf_cons.mp hm
    unfold Memory.write
    split
    · refine Memory.read_consCell (fun d hd => ?_) v k
      rcases List.mem_cons.mp hd with rfl | hd
      · exact Nat.ne_of_gt ‹_›
      · exact Nat.ne_of_gt (lt_trans ‹_› (hlt d hd))
    · split
      · subst_vars
        rw [Memory.read_consCell (fun d hd => Nat.ne_of_gt (hlt d hd)), Memory.read_cons]
        split <;> simp_all
      · simp only [Memory.read_cons, ih hm']
        split <;> split <;> simp_all

/-- Bytes stored at ascending addresses within 0 to 255 keep the canonical form. -/
theorem Memory.wf_writeMany {m : Memory} (hm : m.wf) {addr : Nat} (bytes : List Byte)
    (h : addr + bytes.length ≤ 256) : Memory.wf (m.writeMany addr bytes) := by
  induction bytes generalizing m addr with
  | nil => exact hm
  | cons v vs ih =>
    simp only [List.length_cons] at h
    exact ih (Memory.wf_write hm (by omega) v) (by omega)

/-- A read after bytes were stored at ascending addresses. -/
theorem Memory.read_writeMany {m : Memory} (hm : m.wf) {addr : Nat} (bytes : List Byte)
    (h : addr + bytes.length ≤ 256) (k : Nat) :
    Memory.read (m.writeMany addr bytes) k =
      if addr ≤ k then (bytes[k - addr]?).getD (Memory.read m k) else Memory.read m k := by
  induction bytes generalizing m addr with
  | nil => simp [Memory.writeMany]
  | cons v vs ih =>
    simp only [List.length_cons] at h
    rw [Memory.writeMany, ih (Memory.wf_write hm (by omega) v) (by omega), Memory.read_write hm]
    rcases lt_trichotomy addr k with hk | rfl | hk
    · obtain ⟨d, rfl⟩ : ∃ d, k = addr + 1 + d := ⟨k - (addr + 1), by omega⟩
      have h1 : addr + 1 + d - addr = d + 1 := by omega
      simp [h1, show addr ≤ addr + 1 + d by omega, show addr ≠ addr + 1 + d by omega]
    · simp
    · simp [show ¬ addr ≤ k by omega, show ¬ addr + 1 ≤ k by omega, show addr ≠ k by omega]

/-- Memories in canonical form that read the same are the same data. -/
theorem Memory.ext_read {m n : Memory} (hm : m.wf) (hn : n.wf)
    (h : ∀ addr, m.read addr = n.read addr) : m = n := by
  induction m generalizing n with
  | nil =>
    cases n with
    | nil => rfl
    | cons d n =>
      obtain ⟨hd, _, _⟩ := Memory.wf_cons.mp hn
      have := h d.1
      simp [Memory.read_cons] at this
      exact absurd this.symm hd.2
  | cons c m ih =>
    obtain ⟨hc, hclt, hm'⟩ := Memory.wf_cons.mp hm
    have unlisted_below : ∀ {l : Memory} {a : Nat}, (∀ e ∈ l, a < e.1) → Memory.read l a = unlistedByte :=
      fun hl => Memory.read_of_not_listed fun e he => Nat.ne_of_gt (hl e he)
    cases n with
    | nil =>
      have := h c.1
      simp [Memory.read_cons] at this
      exact absurd this hc.2
    | cons d n =>
      obtain ⟨hd, hdlt, hn'⟩ := Memory.wf_cons.mp hn
      have keys : c.1 = d.1 := by
        rcases lt_trichotomy c.1 d.1 with hlt | heq | hgt
        · have hr := h c.1
          rw [Memory.read_cons, if_pos rfl, unlisted_below] at hr
          · exact absurd hr hc.2
          · intro e he
            rcases List.mem_cons.mp he with rfl | he
            · exact hlt
            · exact lt_trans hlt (hdlt e he)
        · exact heq
        · have hr := h d.1
          rw [Memory.read_cons (c := d), if_pos rfl, unlisted_below] at hr
          · exact absurd hr.symm hd.2
          · intro e he
            rcases List.mem_cons.mp he with rfl | he
            · exact hgt
            · exact lt_trans hgt (hclt e he)
      have vals : c.2 = d.2 := by
        have hr := h c.1
        rwa [Memory.read_cons, if_pos rfl, Memory.read_cons, if_pos keys.symm] at hr
      rw [Prod.ext keys vals, ih hm' hn']
      intro addr
      have hr := h addr
      rw [Memory.read_cons, Memory.read_cons] at hr
      by_cases ha : c.1 = addr
      · subst ha
        rw [unlisted_below hclt, keys, unlisted_below hdlt]
      · rwa [if_neg ha, if_neg (keys ▸ ha)] at hr

/-- A state's byte after a store. -/
theorem State.setByte_byteAt {s : State} (hm : s.mem.wf) (addr : Nat) (v : Byte) (k : Nat) :
    (s.setByte addr v).byteAt k = if addr = k then v else s.byteAt k :=
  Memory.read_write hm addr v k

end Sys2Proof.Machine
end

