-- ==== Sys2Proof/Laws/Ops.lean ====
section
/-! SUPPORT. What each shared operation can do, said once. -/

namespace Sys2Proof.Machine

variable {s t : State}

/-! ### Register operands -/

theorem readReg_of_lt {b : Byte} (h : b.toNat < 8) (s : State) (k : Byte → Result) :
    readReg b s k = k (s.reg ⟨b.toNat, h⟩) := dif_pos h

theorem readReg_of_ge {b : Byte} (h : 8 ≤ b.toNat) (s : State) (k : Byte → Result) :
    readReg b s k = .next (s.raised (.outOfBounds .register b.toNat)) := dif_neg (by omega)

theorem writeReg_of_lt {b : Byte} (h : b.toNat < 8) (v : Byte) (s : State) (k : State → Result) :
    writeReg b v s k = k (s.setReg ⟨b.toNat, h⟩ v) := dif_pos h

theorem writeReg_of_ge {b : Byte} (h : 8 ≤ b.toNat) (v : Byte) (s : State) (k : State → Result) :
    writeReg b v s k = .next (s.raised (.outOfBounds .register b.toNat)) := dif_neg (by omega)

/-! ### Memory -/

theorem memRead_of_le {addr : Nat} (h : addr ≤ 255) (s : State) (k : Byte → Result) :
    memRead addr s k = k (s.byteAt addr) := if_pos h

theorem memRead_of_gt {addr : Nat} (h : 255 < addr) (s : State) (k : Byte → Result) :
    memRead addr s k = .next (s.raised (.outOfBounds .memory addr)) := if_neg (by omega)

theorem memWrite_of_le {addr : Nat} (h : addr ≤ 255) (v : Byte) (s : State) (k : State → Result) :
    memWrite addr v s k = k (s.setByte addr v) := if_pos h

theorem memWrite_of_gt {addr : Nat} (h : 255 < addr) (v : Byte) (s : State) (k : State → Result) :
    memWrite addr v s k = .next (s.raised (.outOfBounds .memory addr)) := if_neg (by omega)

theorem byte_le (b : Byte) : b.toNat ≤ 255 := Nat.le_of_lt_succ b.isLt

/-- A stack access never faults: SP is 8 bits (R53). -/
theorem memRead_byte (b : Byte) (s : State) (k : Byte → Result) :
    memRead b.toNat s k = k (s.byteAt b.toNat) := memRead_of_le (byte_le b) s k

theorem memWrite_byte (b v : Byte) (s : State) (k : State → Result) :
    memWrite b.toNat v s k = k (s.setByte b.toNat v) := memWrite_of_le (byte_le b) v s k

/-! ### The stack check -/

theorem checkPush_pass (h : s.pushBlocked = false) (k : Result) : checkPush s k = k := by
  simp [checkPush, h]

theorem checkPush_blocked (h : s.pushBlocked = true) (k : Result) :
    checkPush s k = .next (s.raised (.stackOverflow s.sp)) := by
  simp [checkPush, h, raise]

theorem checkPop_pass (h : s.popBlocked = false) (k : Result) : checkPop s k = k := by
  simp [checkPop, h]

theorem checkPop_blocked (h : s.popBlocked = true) (k : Result) :
    checkPop s k = .next (s.raised (.stackUnderflow s.sp)) := by
  simp [checkPop, h, raise]

theorem pushBlocked_eq_true :
    s.pushBlocked = true ↔ s.cfg.stackCheck = true ∧ s.sp.toNat ≤ s.cfg.stackLimit.toNat := by
  simp [State.pushBlocked]

theorem pushBlocked_eq_false :
    s.pushBlocked = false ↔ (s.cfg.stackCheck = true → s.cfg.stackLimit.toNat < s.sp.toNat) := by
  simp [State.pushBlocked]

theorem popBlocked_eq_true :
    s.popBlocked = true ↔ s.cfg.stackCheck = true ∧ s.cfg.spInit.toNat ≤ s.sp.toNat := by
  simp [State.popBlocked]

theorem popBlocked_eq_false :
    s.popBlocked = false ↔ (s.cfg.stackCheck = true → s.sp.toNat < s.cfg.spInit.toNat) := by
  simp [State.popBlocked]

/-! ### SP arithmetic -/

theorem decSp_toNat (sp : Byte) : (decSp sp).toNat = (sp.toNat + 255) % 256 := by
  simp [decSp]

theorem incSp_toNat (sp : Byte) : (incSp sp).toNat = (sp.toNat + 1) % 256 := by
  simp [incSp]

@[simp] theorem incSp_decSp (sp : Byte) : incSp (decSp sp) = sp := by
  have := sp.isLt
  apply BitVec.eq_of_toNat_eq
  rw [incSp_toNat, decSp_toNat]
  omega

@[simp] theorem decSp_incSp (sp : Byte) : decSp (incSp sp) = sp := by
  have := sp.isLt
  apply BitVec.eq_of_toNat_eq
  rw [decSp_toNat, incSp_toNat]
  omega

/-! ### Arithmetic -/

theorem mulMod_toNat (x y : Byte) : (mulMod x y).toNat = x.toNat * y.toNat % 256 := by
  simp [mulMod]

theorem addMod_toNat (x y : Byte) : (addMod x y).toNat = (x.toNat + y.toNat) % 256 := by
  simp [addMod]

/-! ### The PC -/

theorem setPc_toNat {n : Nat} (h : n ≤ 256) (s : State) : (s.setPc n).pc.toNat = n := by
  simp only [State.setPc_pc, BitVec.toNat_ofNat]
  omega

/-- Within a cycle whose fetch succeeded, the return address fits a byte (R180). -/
theorem returnAddress_toNat {pc : PcWord} (h : pc.toNat ≤ 253) : (returnAddress pc).toNat = pc.toNat + 2 := by
  simp only [returnAddress, BitVec.toNat_ofNat]
  omega

/-! ### Fetching -/

/-- A fetch window within memory is latched whole (R96). -/
theorem fetch_of_le (h : s.pc.toNat ≤ 253) (k : State → Result) :
    fetch s k =
      k (s.latch (s.byteAt s.pc.toNat) (s.byteAt (s.pc.toNat + 1)) (s.byteAt (s.pc.toNat + 2))) := by
  rw [fetch, memRead_of_le (by omega), memRead_of_le (by omega), memRead_of_le (by omega)]
  rfl

/-- A fetch window that leaves memory faults at the first address outside it (R97). What was latched before
that stays latched. -/
theorem fetch_of_gt (h : 253 < s.pc.toNat) (k : State → Result) :
    ∃ x y, fetch s k =
      .next ((s.latch x y s.opB).raised (.outOfBounds .memory (max s.pc.toNat 256))) := by
  rcases Nat.lt_or_ge 255 s.pc.toNat with h1 | h1
  · refine ⟨s.ir, s.opA, ?_⟩
    rw [fetch, memRead_of_gt h1, Nat.max_eq_left (by omega)]
    rfl
  · rw [fetch, memRead_of_le (by omega), Nat.max_eq_right (by omega)]
    rcases Nat.lt_or_ge 254 s.pc.toNat with h2 | h2
    · refine ⟨s.byteAt s.pc.toNat, s.opA, ?_⟩
      rw [memRead_of_gt (by omega), show s.pc.toNat + 1 = 256 by omega]
    · refine ⟨s.byteAt s.pc.toNat, s.byteAt (s.pc.toNat + 1), ?_⟩
      rw [memRead_of_le (by omega), memRead_of_gt (by omega), show s.pc.toNat + 2 = 256 by omega]
      rfl

end Sys2Proof.Machine
end

