-- ==== Sys2Proof/Laws/Exec.lean ====
section
/-! SUPPORT. What each instruction can do, said once: one equation per way it can go, and for each
instruction the lemma that there is no other way. -/

namespace Sys2Proof.Machine

variable {s t : State}

/-! ### LDI -/

theorem execLdi_ok {a : Byte} (h : a.toNat < 8) (v : Byte) (s : State) :
    execLdi a v s = .next ((s.setReg ⟨a.toNat, h⟩ v).setPc (s.pc.toNat + 3)) :=
  writeReg_of_lt h _ _ _

theorem execLdi_badReg {a : Byte} (h : 8 ≤ a.toNat) (v : Byte) (s : State) :
    execLdi a v s = .next (s.raised (.outOfBounds .register a.toNat)) :=
  writeReg_of_ge h _ _ _

/-! ### PRN -/

theorem execPrn_ok {a : Byte} (h : a.toNat < 8) (s : State) :
    execPrn a s = .next ((s.emit (s.reg ⟨a.toNat, h⟩)).setPc (s.pc.toNat + 2)) :=
  readReg_of_lt h _ _

theorem execPrn_badReg {a : Byte} (h : 8 ≤ a.toNat) (s : State) :
    execPrn a s = .next (s.raised (.outOfBounds .register a.toNat)) :=
  readReg_of_ge h _ _

/-! ### MUL and ADD -/

theorem arith_ok {a b : Byte} (ha : a.toNat < 8) (hb : b.toNat < 8) (f : Byte → Byte → Byte) (s : State) :
    arith f a b s =
      .next ((s.setReg ⟨a.toNat, ha⟩ (f (s.reg ⟨a.toNat, ha⟩) (s.reg ⟨b.toNat, hb⟩))).setPc (s.pc.toNat + 3)) := by
  rw [arith, readReg_of_lt ha, readReg_of_lt hb, writeReg_of_lt ha]
  rfl

theorem arith_badA {a : Byte} (ha : 8 ≤ a.toNat) (b : Byte) (f : Byte → Byte → Byte) (s : State) :
    arith f a b s = .next (s.raised (.outOfBounds .register a.toNat)) :=
  readReg_of_ge ha _ _

theorem arith_badB {a b : Byte} (ha : a.toNat < 8) (hb : 8 ≤ b.toNat) (f : Byte → Byte → Byte) (s : State) :
    arith f a b s = .next (s.raised (.outOfBounds .register b.toNat)) := by
  rw [arith, readReg_of_lt ha, readReg_of_ge hb]

/-! ### PUSH -/

theorem execPush_blocked (h : s.pushBlocked = true) (a : Byte) :
    execPush a s = .next (s.raised (.stackOverflow s.sp)) := checkPush_blocked h _

theorem execPush_ok {a : Byte} (hc : s.pushBlocked = false) (h : a.toNat < 8) :
    execPush a s =
      .next ((s.spDown.setByte (decSp s.sp).toNat (s.reg ⟨a.toNat, h⟩)).setPc (s.pc.toNat + 2)) := by
  rw [execPush, checkPush_pass hc]
  dsimp only
  rw [readReg_of_lt h, memWrite_byte]
  rfl

theorem execPush_badReg {a : Byte} (hc : s.pushBlocked = false) (h : 8 ≤ a.toNat) :
    execPush a s = .next (s.spDown.raised (.outOfBounds .register a.toNat)) := by
  rw [execPush, checkPush_pass hc]
  dsimp only
  rw [readReg_of_ge h]

/-! ### POP -/

theorem execPop_blocked (h : s.popBlocked = true) (a : Byte) :
    execPop a s = .next (s.raised (.stackUnderflow s.sp)) := checkPop_blocked h _

theorem execPop_ok {a : Byte} (hc : s.popBlocked = false) (h : a.toNat < 8) :
    execPop a s =
      .next ((s.setReg ⟨a.toNat, h⟩ (s.byteAt s.sp.toNat)).spUp.setPc (s.pc.toNat + 2)) := by
  rw [execPop, checkPop_pass hc, memRead_byte, writeReg_of_lt h]
  rfl

theorem execPop_badReg {a : Byte} (hc : s.popBlocked = false) (h : 8 ≤ a.toNat) :
    execPop a s = .next (s.raised (.outOfBounds .register a.toNat)) := by
  rw [execPop, checkPop_pass hc, memRead_byte, writeReg_of_ge h]

/-! ### CALL -/

theorem execCall_blocked (h : s.pushBlocked = true) (a : Byte) :
    execCall a s = .next (s.raised (.stackOverflow s.sp)) := checkPush_blocked h _

theorem execCall_ok {a : Byte} (hc : s.pushBlocked = false) (h : a.toNat < 8) :
    execCall a s =
      .next ((s.spDown.setByte (decSp s.sp).toNat (returnAddress s.pc)).setPc (s.reg ⟨a.toNat, h⟩).toNat) := by
  rw [execCall, checkPush_pass hc]
  dsimp only
  rw [memWrite_byte, readReg_of_lt h]
  rfl

theorem execCall_badReg {a : Byte} (hc : s.pushBlocked = false) (h : 8 ≤ a.toNat) :
    execCall a s =
      .next ((s.spDown.setByte (decSp s.sp).toNat (returnAddress s.pc)).raised
        (.outOfBounds .register a.toNat)) := by
  rw [execCall, checkPush_pass hc]
  dsimp only
  rw [memWrite_byte, readReg_of_ge h]
  rfl

/-! ### RET -/

theorem execRet_blocked (h : s.popBlocked = true) :
    execRet s = .next (s.raised (.stackUnderflow s.sp)) := checkPop_blocked h _

theorem execRet_ok (hc : s.popBlocked = false) :
    execRet s = .next (s.spUp.setPc (s.byteAt s.sp.toNat).toNat) := by
  rw [execRet, checkPop_pass hc, memRead_byte]
  rfl

/-! ### All instructions -/

/-- The ways an instruction can go: its next state, one constructor per way. -/
inductive Ran : Instr → State → State → Prop
  | ldi {a v : Byte} {s : State} (h : a.toNat < 8) :
      Ran (.ldi a v) s ((s.setReg ⟨a.toNat, h⟩ v).setPc (s.pc.toNat + 3))
  | ldiBad {a v : Byte} {s : State} (h : 8 ≤ a.toNat) : Ran (.ldi a v) s (s.raised (.outOfBounds .register a.toNat))
  | prn {a : Byte} {s : State} (h : a.toNat < 8) : Ran (.prn a) s ((s.emit (s.reg ⟨a.toNat, h⟩)).setPc (s.pc.toNat + 2))
  | prnBad {a : Byte} {s : State} (h : 8 ≤ a.toNat) : Ran (.prn a) s (s.raised (.outOfBounds .register a.toNat))
  | mul {a b : Byte} {s : State} (ha : a.toNat < 8) (hb : b.toNat < 8) :
      Ran (.mul a b) s
        ((s.setReg ⟨a.toNat, ha⟩ (mulMod (s.reg ⟨a.toNat, ha⟩) (s.reg ⟨b.toNat, hb⟩))).setPc (s.pc.toNat + 3))
  | mulBadA {a b : Byte} {s : State} (ha : 8 ≤ a.toNat) : Ran (.mul a b) s (s.raised (.outOfBounds .register a.toNat))
  | mulBadB {a b : Byte} {s : State} (ha : a.toNat < 8) (hb : 8 ≤ b.toNat) :
      Ran (.mul a b) s (s.raised (.outOfBounds .register b.toNat))
  | add {a b : Byte} {s : State} (ha : a.toNat < 8) (hb : b.toNat < 8) :
      Ran (.add a b) s
        ((s.setReg ⟨a.toNat, ha⟩ (addMod (s.reg ⟨a.toNat, ha⟩) (s.reg ⟨b.toNat, hb⟩))).setPc (s.pc.toNat + 3))
  | addBadA {a b : Byte} {s : State} (ha : 8 ≤ a.toNat) : Ran (.add a b) s (s.raised (.outOfBounds .register a.toNat))
  | addBadB {a b : Byte} {s : State} (ha : a.toNat < 8) (hb : 8 ≤ b.toNat) :
      Ran (.add a b) s (s.raised (.outOfBounds .register b.toNat))
  | pushBlocked {a : Byte} {s : State} (h : s.pushBlocked = true) : Ran (.push a) s (s.raised (.stackOverflow s.sp))
  | push {a : Byte} {s : State} (hc : s.pushBlocked = false) (h : a.toNat < 8) :
      Ran (.push a) s ((s.spDown.setByte (decSp s.sp).toNat (s.reg ⟨a.toNat, h⟩)).setPc (s.pc.toNat + 2))
  | pushBad {a : Byte} {s : State} (hc : s.pushBlocked = false) (h : 8 ≤ a.toNat) :
      Ran (.push a) s (s.spDown.raised (.outOfBounds .register a.toNat))
  | popBlocked {a : Byte} {s : State} (h : s.popBlocked = true) : Ran (.pop a) s (s.raised (.stackUnderflow s.sp))
  | pop {a : Byte} {s : State} (hc : s.popBlocked = false) (h : a.toNat < 8) :
      Ran (.pop a) s ((s.setReg ⟨a.toNat, h⟩ (s.byteAt s.sp.toNat)).spUp.setPc (s.pc.toNat + 2))
  | popBad {a : Byte} {s : State} (hc : s.popBlocked = false) (h : 8 ≤ a.toNat) :
      Ran (.pop a) s (s.raised (.outOfBounds .register a.toNat))
  | callBlocked {a : Byte} {s : State} (h : s.pushBlocked = true) : Ran (.call a) s (s.raised (.stackOverflow s.sp))
  | call {a : Byte} {s : State} (hc : s.pushBlocked = false) (h : a.toNat < 8) :
      Ran (.call a) s
        ((s.spDown.setByte (decSp s.sp).toNat (returnAddress s.pc)).setPc (s.reg ⟨a.toNat, h⟩).toNat)
  | callBad {a : Byte} {s : State} (hc : s.pushBlocked = false) (h : 8 ≤ a.toNat) :
      Ran (.call a) s
        ((s.spDown.setByte (decSp s.sp).toNat (returnAddress s.pc)).raised (.outOfBounds .register a.toNat))
  | retBlocked {s : State} (h : s.popBlocked = true) : Ran .ret s (s.raised (.stackUnderflow s.sp))
  | ret {s : State} (hc : s.popBlocked = false) : Ran .ret s (s.spUp.setPc (s.byteAt s.sp.toNat).toNat)
  | hlt {s : State} : Ran .hlt s s.halt

/-- Every instruction answers a next state from every state, by one of the ways of `Ran`. -/
theorem exec_ran (i : Instr) (s : State) : ∃ t, exec i s = .next t ∧ Ran i s t := by
  cases i with
  | ldi a v =>
    rcases Nat.lt_or_ge a.toNat 8 with h | h
    · exact ⟨_, execLdi_ok h v s, .ldi h⟩
    · exact ⟨_, execLdi_badReg h v s, .ldiBad h⟩
  | prn a =>
    rcases Nat.lt_or_ge a.toNat 8 with h | h
    · exact ⟨_, execPrn_ok h s, .prn h⟩
    · exact ⟨_, execPrn_badReg h s, .prnBad h⟩
  | mul a b =>
    rcases Nat.lt_or_ge a.toNat 8 with ha | ha
    · rcases Nat.lt_or_ge b.toNat 8 with hb | hb
      · exact ⟨_, arith_ok ha hb mulMod s, .mul ha hb⟩
      · exact ⟨_, arith_badB ha hb mulMod s, .mulBadB ha hb⟩
    · exact ⟨_, arith_badA ha b mulMod s, .mulBadA ha⟩
  | add a b =>
    rcases Nat.lt_or_ge a.toNat 8 with ha | ha
    · rcases Nat.lt_or_ge b.toNat 8 with hb | hb
      · exact ⟨_, arith_ok ha hb addMod s, .add ha hb⟩
      · exact ⟨_, arith_badB ha hb addMod s, .addBadB ha hb⟩
    · exact ⟨_, arith_badA ha b addMod s, .addBadA ha⟩
  | push a =>
    cases hc : s.pushBlocked with
    | true => exact ⟨_, execPush_blocked hc a, .pushBlocked hc⟩
    | false =>
      rcases Nat.lt_or_ge a.toNat 8 with h | h
      · exact ⟨_, execPush_ok hc h, .push hc h⟩
      · exact ⟨_, execPush_badReg hc h, .pushBad hc h⟩
  | pop a =>
    cases hc : s.popBlocked with
    | true => exact ⟨_, execPop_blocked hc a, .popBlocked hc⟩
    | false =>
      rcases Nat.lt_or_ge a.toNat 8 with h | h
      · exact ⟨_, execPop_ok hc h, .pop hc h⟩
      · exact ⟨_, execPop_badReg hc h, .popBad hc h⟩
  | call a =>
    cases hc : s.pushBlocked with
    | true => exact ⟨_, execCall_blocked hc a, .callBlocked hc⟩
    | false =>
      rcases Nat.lt_or_ge a.toNat 8 with h | h
      · exact ⟨_, execCall_ok hc h, .call hc h⟩
      · exact ⟨_, execCall_badReg hc h, .callBad hc h⟩
  | ret =>
    cases hc : s.popBlocked with
    | true => exact ⟨_, execRet_blocked hc, .retBlocked hc⟩
    | false => exact ⟨_, execRet_ok hc, .ret hc⟩
  | hlt => exact ⟨_, rfl, .hlt⟩

/-- An instruction's next state is reached by one of the ways of `Ran`. -/
theorem ran_of_exec {i : Instr} (h : exec i s = .next t) : Ran i s t := by
  obtain ⟨t', h', hr⟩ := exec_ran i s
  rw [h'] at h
  cases h
  exact hr

end Sys2Proof.Machine
end

