-- ==== Sys2Proof/Laws/Frame.lean ====
section
/-! SUPPORT. The small lemmas of the words of Safety.lean: what the updates leave alone. -/

namespace Sys2Proof.Machine

variable {s t : State}

theorem RegsSameExcept.of_regs_eq (h : t.regs = s.regs) (l : List Nat) : RegsSameExcept l s t := by
  intro j _
  simp [State.reg, h]

theorem MemSameExcept.of_mem_eq (h : t.mem = s.mem) (l : List Nat) : MemSameExcept l s t := by
  intro k _
  simp [State.byteAt, h]

/-- A register write leaves every other register. -/
theorem RegsSameExcept.setReg (s : State) (i : RegIx) (v : Byte) :
    RegsSameExcept [i.val] s (s.setReg i v) := by
  intro j hj
  exact State.setReg_reg_ne s (by rintro rfl; simp at hj) v

/-- A store leaves every other byte. -/
theorem MemSameExcept.setByte (hm : s.mem.wf) (k : Nat) (v : Byte) : MemSameExcept [k] s (s.setByte k v) := by
  intro j hj
  rw [State.setByte_byteAt hm, if_neg]
  rintro rfl
  simp at hj

/-- A push leaves every byte but the one it stores. -/
theorem MemSameExcept.push (hm : s.mem.wf) (k : Nat) (v : Byte) :
    MemSameExcept [k] s (s.spDown.setByte k v) :=
  fun j hj => MemSameExcept.setByte (s := s.spDown) hm k v j hj

/-- The byte a push stores reads back. -/
theorem push_byteAt_self (hm : s.mem.wf) (k : Nat) (v : Byte) : (s.spDown.setByte k v).byteAt k = v := by
  rw [State.setByte_byteAt (s := s.spDown) hm, if_pos rfl]

/-- A store at an address that is a byte keeps the canonical form. -/
theorem Memory.wf_write_byte {m : Memory} (h : m.wf) (b v : Byte) : Memory.wf (m.write b.toNat v) :=
  Memory.wf_write h (Nat.lt_succ_of_le (byte_le b)) v

theorem decSp_toNat_of_pos {sp : Byte} (h : 0 < sp.toNat) : (decSp sp).toNat = sp.toNat - 1 := by
  have := sp.isLt
  rw [decSp_toNat]
  omega

theorem incSp_toNat_of_lt {sp : Byte} (h : sp.toNat < 255) : (incSp sp).toNat = sp.toNat + 1 := by
  rw [incSp_toNat]
  omega

/-- A register number that is an operand byte other than 7 is not register 7. -/
theorem regIx_ne_seven {a : Byte} {h : a.toNat < 8} (h7 : a.toNat ≠ 7) : (⟨a.toNat, h⟩ : RegIx) ≠ 7 :=
  fun e => h7 (congrArg Fin.val e)

end Sys2Proof.Machine
end

