-- ==== Sys2Proof/Laws/PerInstr.lean ====
section
/-! SUPPORT. Statements made per instruction, one lemma per constructor. -/

/-! ### DecodesBack: an instruction's bytes, with any bytes after them, decode to it -/

/-- Decoding an instruction's bytes followed by two more gives the instruction back, under every legal
opcode map and for every operand byte. -/
def Sys2Proof.Laws.DecodesBack.Statement (i : Sys2Proof.Instr) : Prop :=
  ∀ (o : Sys2Proof.OpcodeMap), o.wf → ∀ x y : Sys2Proof.Byte,
    Sys2Proof.decode o (Sys2Proof.encode o i ++ [x, y]) = .ok i

namespace Sys2Proof.Laws.DecodesBack

theorem ldi (a v : Byte) : Statement (.ldi a v) := fun o h x y => by
  simp [encode, Instr.mnemonic, Instr.operands, decode, decodeWindow_byte h, instrOf]
theorem prn (a : Byte) : Statement (.prn a) := fun o h x y => by
  simp [encode, Instr.mnemonic, Instr.operands, decode, decodeWindow_byte h, instrOf]
theorem mul (a b : Byte) : Statement (.mul a b) := fun o h x y => by
  simp [encode, Instr.mnemonic, Instr.operands, decode, decodeWindow_byte h, instrOf]
theorem add (a b : Byte) : Statement (.add a b) := fun o h x y => by
  simp [encode, Instr.mnemonic, Instr.operands, decode, decodeWindow_byte h, instrOf]
theorem push (a : Byte) : Statement (.push a) := fun o h x y => by
  simp [encode, Instr.mnemonic, Instr.operands, decode, decodeWindow_byte h, instrOf]
theorem pop (a : Byte) : Statement (.pop a) := fun o h x y => by
  simp [encode, Instr.mnemonic, Instr.operands, decode, decodeWindow_byte h, instrOf]
theorem call (a : Byte) : Statement (.call a) := fun o h x y => by
  simp [encode, Instr.mnemonic, Instr.operands, decode, decodeWindow_byte h, instrOf]
theorem ret : Statement .ret := fun o h x y => by
  simp [encode, Instr.mnemonic, Instr.operands, decode, decodeWindow_byte h, instrOf]
theorem hlt : Statement .hlt := fun o h x y => by
  simp [encode, Instr.mnemonic, Instr.operands, decode, decodeWindow_byte h, instrOf]

end Sys2Proof.Laws.DecodesBack
end

