-- ==== Sys2Proof/Laws/Step.lean ====
section
/-! SUPPORT. What a step can do, said once. -/

namespace Sys2Proof.Machine

variable {s t : State}

/-- The state a handler runs on: the cycle has begun and the window is latched (R96). -/
def State.fetched (s : State) : State :=
  s.begin.latch (s.byteAt s.pc.toNat) (s.byteAt (s.pc.toNat + 1)) (s.byteAt (s.pc.toNat + 2))

/-- In a terminal state nothing happens (R95). -/
theorem step_terminal (h : s.run ≠ .running) : step s = .next s := by
  simp [step, State.runningFlag, h]

/-- A cycle whose window decodes runs the instruction on the fetched state (R96). -/
theorem step_of_instr {i : Instr} (hr : s.run = .running) (hi : s.windowInstr = some i) :
    step s = exec i s.fetched := by
  unfold State.windowInstr at hi
  split at hi
  · next hpc =>
    rw [step, if_pos (by simpa [State.runningFlag] using hr), fetch_of_le (by exact hpc), decodeAndRun]
    simp only [State.latch_cfg, State.latch_ir, State.latch_opA, State.latch_opB, State.begin_cfg,
      State.begin_byteAt, State.begin_pc, hi]
    rfl
  · cases hi

/-- A cycle whose window begins with no opcode raises `IllegalInstruction` (R88, R96). -/
theorem step_of_illegal (hr : s.run = .running) (hpc : s.pc.toNat ≤ 253) (hi : s.windowInstr = none) :
    step s = .next (s.fetched.raised (.illegalInstruction (s.byteAt s.pc.toNat) s.pc)) := by
  rw [State.windowInstr, if_pos hpc] at hi
  rw [step, if_pos (by simpa [State.runningFlag] using hr), fetch_of_le (by exact hpc), decodeAndRun]
  simp only [State.latch_cfg, State.latch_ir, State.latch_opA, State.latch_opB, State.begin_cfg,
    State.begin_byteAt, State.begin_pc, hi]
  rfl

/-- A cycle whose window leaves memory faults before decode (R97). -/
theorem step_of_fetchFault (hr : s.run = .running) (hpc : 253 < s.pc.toNat) :
    ∃ x y, step s =
      .next ((s.begin.latch x y s.opB).raised (.outOfBounds .memory (max s.pc.toNat 256))) := by
  rw [step, if_pos (by simpa [State.runningFlag] using hr)]
  exact fetch_of_gt (s := s.begin) hpc decodeAndRun

/-- The ways a step can go. -/
inductive Stepped : State → State → Prop
  | terminal {s : State} (h : s.run ≠ .running) : Stepped s s
  | fetchFault {s : State} (x y : Byte) (hr : s.run = .running) (hpc : 253 < s.pc.toNat) :
      Stepped s ((s.begin.latch x y s.opB).raised (.outOfBounds .memory (max s.pc.toNat 256)))
  | illegal {s : State} (hr : s.run = .running) (hpc : s.pc.toNat ≤ 253) (hi : s.windowInstr = none) :
      Stepped s (s.fetched.raised (.illegalInstruction (s.byteAt s.pc.toNat) s.pc))
  | ran {s t : State} {i : Instr} (hr : s.run = .running) (hpc : s.pc.toNat ≤ 253) (hi : s.windowInstr = some i)
      (h : Ran i s.fetched t) : Stepped s t

/-- A step answers a next state from every state, by one of the ways of `Stepped` (R99). -/
theorem step_stepped (s : State) : ∃ t, step s = .next t ∧ Stepped s t := by
  by_cases hr : s.run = .running
  · rcases Nat.lt_or_ge 253 s.pc.toNat with hpc | hpc
    · obtain ⟨x, y, h⟩ := step_of_fetchFault hr hpc
      exact ⟨_, h, .fetchFault x y hr hpc⟩
    · cases hi : s.windowInstr with
      | none => exact ⟨_, step_of_illegal hr hpc hi, .illegal hr hpc hi⟩
      | some i =>
        obtain ⟨t, h, hran⟩ := exec_ran i s.fetched
        exact ⟨t, (step_of_instr hr hi).trans h, .ran hr hpc hi hran⟩
  · exact ⟨s, step_terminal hr, .terminal hr⟩

/-- A step's next state is reached by one of the ways of `Stepped`. -/
theorem stepped_of_step (h : step s = .next t) : Stepped s t := by
  obtain ⟨t', h', hs⟩ := step_stepped s
  rw [h'] at h
  cases h
  exact hs

/-- A window that decodes lies within memory. -/
theorem pc_le_of_windowInstr {i : Instr} (h : s.windowInstr = some i) : s.pc.toNat ≤ 253 := by
  unfold State.windowInstr at h
  split at h
  · assumption
  · cases h

/-- The host's run, one step on. -/
theorem core_run_next (h : step s = .next t) (n : Nat) :
    Sys2Proof.core.run (n + 1) s = Sys2Proof.core.run n t := by
  have h1 : Sys2Proof.core.step s = .next t := h
  simp only [Host.Core.run, h1]

end Sys2Proof.Machine
end

