-- ==== Sys2Proof/Tests/Slice0.lean ====
section
/-! SUPPORT. The model's own tests: expected values are those of spec/95_test_vectors.md (V<n>, W<n>) and of the
rules named; and for each statement with hypotheses a state and operands that meet them. -/

namespace Sys2Proof.Tests

open Sys2Proof Sys2Proof.Machine

/-! ### Helpers -/

/-- One step answers a next state that passes a check. -/
def after (s : State) (p : State → Bool) : Bool :=
  match step s with
  | .next t    => p t
  | .fault _   => false
  | .refused _ => false

/-- A host operation answers a next state that passes a check. -/
def answers (r : Result) (p : State → Bool) : Bool :=
  match r with
  | .next t    => p t
  | .fault _   => false
  | .refused _ => false

/-- The reset state with these bytes at the PC. -/
def at0 (bytes : List Byte) : State := State.reset.placeAtPc bytes

/-- The reset state with the stack check on and these bytes at the PC. -/
def checked (bytes : List Byte) : State :=
  (State.newMachine { defaultConfig with stackCheck := true }).placeAtPc bytes

/-- The record of a fault of a cycle at a PC. -/
def record (info : FaultInfo) (pc : PcWord) : Option FaultRecord := some { info := info, pc := some pc }

/-! ### WellFormed: a term each check refuses -/

theorem test_wf_ldi : (Instr.ldi 8 0).wellFormed = false ∧ (Instr.ldi 7 255).wellFormed = true := by decide
theorem test_wf_prn : (Instr.prn 8).wellFormed = false ∧ (Instr.prn 0).wellFormed = true := by decide
theorem test_wf_mul : (Instr.mul 8 0).wellFormed = false ∧ (Instr.mul 0 8).wellFormed = false := by decide
theorem test_wf_add : (Instr.add 255 0).wellFormed = false ∧ (Instr.add 0 255).wellFormed = false := by decide
theorem test_wf_push : (Instr.push 9).wellFormed = false ∧ (Instr.push 7).wellFormed = true := by decide
theorem test_wf_pop : (Instr.pop 128).wellFormed = false ∧ (Instr.pop 1).wellFormed = true := by decide
theorem test_wf_call : (Instr.call 8).wellFormed = false ∧ (Instr.call 2).wellFormed = true := by decide
theorem test_wf_opcodes : ¬ ({ defaultOpcodes with add := 0xA2 } : OpcodeMap).wf ∧ defaultOpcodes.wf := by decide
theorem test_wf_config :
    ¬ ({ defaultConfig with stackLimit := 0xF5 } : Config).wf ∧ defaultConfig.wf := by decide
theorem test_wf_memory :
    ¬ Memory.wf [(1, 5), (0, 5)] ∧ ¬ Memory.wf [(1, 5), (1, 6)] ∧ ¬ Memory.wf [(0, 0)] ∧
      ¬ Memory.wf [(256, 5)] ∧ Memory.wf [(0, 5), (255, 6)] := by decide

/-! ### Decoding: the words of R86's table, bit by bit -/

theorem test_decode_ldi : decodeWindow defaultOpcodes 0b10000010 0 8 = some (.ldi 0 8) := by decide
theorem test_decode_prn : decodeWindow defaultOpcodes 0b01000111 2 0x55 = some (.prn 2) := by decide
theorem test_decode_mul : decodeWindow defaultOpcodes 0b10100010 9 10 = some (.mul 9 10) := by decide
theorem test_decode_add : decodeWindow defaultOpcodes 0b10100000 0 12 = some (.add 0 12) := by decide
theorem test_decode_push : decodeWindow defaultOpcodes 0b01000101 7 0 = some (.push 7) := by decide
theorem test_decode_pop : decodeWindow defaultOpcodes 0b01000110 8 1 = some (.pop 8) := by decide
theorem test_decode_call : decodeWindow defaultOpcodes 0b01010000 1 0 = some (.call 1) := by decide
theorem test_decode_ret : decodeWindow defaultOpcodes 0b00010001 3 4 = some .ret := by decide
theorem test_decode_hlt : decodeWindow defaultOpcodes 0b00000001 0 0 = some .hlt := by decide
/-- V6, V7, V8. -/
theorem test_decode_illegal :
    decode defaultOpcodes [0x00, 0, 0] = .error (.illegalOpcode 0x00) ∧
    decode defaultOpcodes [0xFF, 0, 0] = .error (.illegalOpcode 0xFF) ∧
    decode defaultOpcodes [0x83, 0, 0] = .error (.illegalOpcode 0x83) ∧
    decode defaultOpcodes [0x01, 0] = .error .shortWindow := by decide
/-- P1's lines. -/
theorem test_encode :
    encode defaultOpcodes (.ldi 1 9) = [0x82, 0x01, 0x09] ∧ encode defaultOpcodes (.prn 0) = [0x47, 0x00] ∧
    encode defaultOpcodes (.mul 0 1) = [0xA2, 0x00, 0x01] ∧ encode defaultOpcodes .hlt = [0x01] := by decide

/-! ### The vectors: one step each -/

/-- V1: LDI at 253 leaves PC 256. -/
theorem test_v1_ldi_at_253 :
    after ((State.reset.setPc 253).placeAtPc [0x82, 0x00, 0x05])
      (fun t => t.reg 0 == 5 && t.pc == 256 && t.run == .running) := by decide
/-- V2: the cycle at 256 faults. -/
theorem test_v2_fetch_at_256 :
    after (State.reset.setPc 256)
      (fun t => t.run == .faulted && t.fault == record (.outOfBounds .memory 256) 256 && t.pc == 256) := by decide
/-- V3: HLT at 254 does not halt. -/
theorem test_v3_hlt_at_254 :
    after ((State.reset.setPc 254).placeAtPc [0x01])
      (fun t => t.run == .faulted && t.fault == record (.outOfBounds .memory 256) 254 && t.pc == 254) := by decide
/-- V6: the reset memory's first byte is illegal. -/
theorem test_v6_illegal :
    after State.reset (fun t => t.run == .faulted && t.fault == record (.illegalInstruction 0 0) 0) := by decide
/-- V9: a halted machine does not change. -/
theorem test_v9_halted : after (at0 [0x82, 0, 1]).halt (fun t => t == (at0 [0x82, 0, 1]).halt) := by decide
/-- V12: LDI R7 leaves SP. -/
theorem test_v12_ldi_r7 :
    after (at0 [0x82, 0x07, 0x10]) (fun t => t.reg 7 == 0x10 && t.sp == 0xF4 && t.pc == 3) := by decide
/-- V13. -/
theorem test_v13_ldi_bad :
    after (at0 [0x82, 0x08, 0x01])
      (fun t => t.fault == record (.outOfBounds .register 8) 0 && t.pc == 0 && t.regs == State.reset.regs) := by decide
/-- V16, with a value already emitted. -/
theorem test_v16_prn :
    after (((at0 [0x47, 0x05]).setReg 5 255).emit 3) (fun t => t.out == [3, 255] && t.pc == 2) := by decide
/-- V18. -/
theorem test_v18_prn_bad :
    after (at0 [0x47, 0x09]) (fun t => t.fault == record (.outOfBounds .register 9) 0 && t.out == []) := by decide
/-- V21. -/
theorem test_v21_mul :
    after (((at0 [0xA2, 0x00, 0x01]).setReg 0 255).setReg 1 255)
      (fun t => t.reg 0 == 1 && t.reg 1 == 255 && t.pc == 3) := by decide
/-- V27: the first operand is checked first. -/
theorem test_v27_mul_bad :
    after (at0 [0xA2, 0x09, 0x0A]) (fun t => t.fault == record (.outOfBounds .register 9) 0) := by decide
/-- V28. -/
theorem test_v28_add :
    after (((at0 [0xA0, 0x00, 0x01]).setReg 0 200).setReg 1 100)
      (fun t => t.reg 0 == 44 && t.reg 1 == 100 && t.pc == 3) := by decide
/-- V34. -/
theorem test_v34_add_bad :
    after (at0 [0xA0, 0x00, 0x0C])
      (fun t => t.fault == record (.outOfBounds .register 12) 0 && t.regs == State.reset.regs) := by decide
/-- V36: SP wraps from 0 to 255. -/
theorem test_v36_push_wraps :
    after (((at0 [0x45, 0x01]).setReg 1 9).setSp 0) (fun t => t.sp == 0xFF && t.byteAt 0xFF == 9 && t.pc == 2) := by
  decide
/-- V38: SP stays lowered, memory is unchanged. -/
theorem test_v38_push_bad :
    after (at0 [0x45, 0x08])
      (fun t => t.fault == record (.outOfBounds .register 8) 0 && t.sp == 0xF3 && t.byteAt 0xF3 == 0 && t.pc == 0) := by
  decide
/-- V39 and V40: the check at and above the limit. -/
theorem test_v39_push_overflow :
    after ((checked [0x45, 0x00]).setSp 0) (fun t => t.fault == record (.stackOverflow 0) 0 && t.sp == 0) ∧
    after ((checked [0x45, 0x00]).setSp 1) (fun t => t.fault == none && t.sp == 0) := by decide
/-- V42: SP wraps from 255 to 0. -/
theorem test_v42_pop_wraps :
    after (((at0 [0x46, 0x02]).setByte 0xFF 0x42).setSp 0xFF) (fun t => t.reg 2 == 0x42 && t.sp == 0 && t.pc == 2) := by
  decide
/-- V44 and V45: the check, and a bad index, leave SP. -/
theorem test_v44_pop_faults :
    after (checked [0x46, 0x00]) (fun t => t.fault == record (.stackUnderflow 0xF4) 0 && t.sp == 0xF4) ∧
    after ((at0 [0x46, 0x08]).setSp 0xF3)
      (fun t => t.fault == record (.outOfBounds .register 8) 0 && t.sp == 0xF3) := by decide
/-- V47. -/
theorem test_v47_call :
    after (((State.reset.setPc 0x0A).placeAtPc [0x50, 0x01]).setReg 1 0x20)
      (fun t => t.sp == 0xF3 && t.byteAt 0xF3 == 0x0C && t.pc == 0x20) := by decide
/-- V49: the push stands. -/
theorem test_v49_call_bad :
    after (at0 [0x50, 0x08])
      (fun t => t.fault == record (.outOfBounds .register 8) 0 && t.sp == 0xF3 && t.byteAt 0xF3 == 2 && t.pc == 0) := by
  decide
/-- V52. -/
theorem test_v52_ret :
    after (((at0 [0x11]).setByte 0xFF 0x42).setSp 0xFF) (fun t => t.pc == 0x42 && t.sp == 0) := by decide
/-- V53. -/
theorem test_v53_ret_underflow :
    after (checked [0x11]) (fun t => t.fault == record (.stackUnderflow 0xF4) 0 && t.sp == 0xF4 && t.pc == 0) := by decide
/-- V55. -/
theorem test_v55_hlt :
    after ((State.reset.setPc 11).placeAtPc [0x01]) (fun t => t.run == .halted && t.pc == 11 && t.fault == none) := by
  decide
/-- R66: a CALL whose push lands on its own operand byte jumps through the register first named. -/
theorem test_call_over_its_operand :
    after (((at0 [0x50, 0x01]).setReg 1 0x20).setSp 2) (fun t => t.byteAt 1 == 2 && t.pc == 0x20) := by decide

/-! ### The host's operations and the assembler -/

/-- V61, and R263's refusal after a cycle. -/
theorem test_v61_load :
    answers (load [1, 2, 3] State.reset) (fun t => t.mem == [(0, 1), (1, 2), (2, 3)] && t.run == .running) ∧
    answers (load [9] State.reset.begin) (fun _ => true) = false := by decide
set_option maxRecDepth 4000 in
/-- V60. -/
theorem test_v60_load_too_large :
    answers (load (List.replicate 257 1) State.reset)
      (fun t => t.run == .faulted && t.fault == some { info := .programTooLarge 257, pc := none } && t.mem == []) := by
  decide
/-- W7's list, in the notation of R91, is P1's image. -/
theorem test_w7_list :
    Asm.assembleList defaultOpcodes
      [.op .ldi, .byte 0, .byte 8, .op .ldi, .byte 1, .byte 9, .op .mul, .byte 0, .byte 1, .op .prn, .byte 0, .op .hlt]
      = [0x82, 0x00, 0x08, 0x82, 0x01, 0x09, 0xA2, 0x00, 0x01, 0x47, 0x00, 0x01] := by decide
/-- P3's text, whose label stands for its address. -/
theorem test_p3_text :
    Asm.assemble defaultOpcodes
      "LDI R1, DOUBLE\nLDI R0, 10\nCALL R1\nPRN R0\nHLT\nDOUBLE: ADD R0, R0\nRET".toList
      = some [0x82, 0x01, 0x0B, 0x82, 0x00, 0x0A, 0x50, 0x01, 0x47, 0x00, 0x01, 0xA0, 0x00, 0x00, 0x11] := by decide
/-- R90: three spellings of a number, and what the syntax refuses. -/
theorem test_asm_numbers :
    Asm.assemble defaultOpcodes "DB 255\nDB 0xfF\nDB 0b101".toList = some [255, 255, 5] ∧
    Asm.assemble defaultOpcodes "DB 256".toList = none ∧
    Asm.assemble defaultOpcodes "PRN R8".toList = none ∧
    Asm.assemble defaultOpcodes "DB NOWHERE".toList = none := by decide
/-- What the host asks of the two fixed names, on one row. -/
theorem test_table_word :
    decodeTableWord 24 0xFF0382 = some (.ldi 3 255) ∧ decodeTableWord 8 0x82 = some (.ldi 0 0) ∧
    after (State.reset.withFetchWord 24 0xFF0382) (fun t => t.reg 3 == 255 && t.pc == 3) := by decide

end Sys2Proof.Tests
end

