-- ==== Sys2Proof/Tests/Witnesses.lean ====
section
/-! SUPPORT. For each statement of Certificates/Slice0/Obligations.lean that has hypotheses: states and operands
that meet them together, one for each clause. A theorem here is named after its statement. -/

namespace Sys2Proof.Tests

open Sys2Proof Sys2Proof.Machine

/-! ### States the witnesses use -/

theorem reset_inv : State.reset.Inv :=
  ⟨by decide, by decide, by decide, by decide, by decide, fun _ h => (nomatch h), by decide⟩

/-- A machine with the stack check on meets the invariant. -/
theorem checked_inv : (State.newMachine { defaultConfig with stackCheck := true }).Inv :=
  ⟨by decide, by decide, by decide, by decide, by decide, fun _ h => (nomatch h), by decide⟩

/-- A state with SP at the lower bound and the check on. -/
def atLimit : State := (checked []).setSp 0

/-- A state with the check on, one byte pushed. -/
def onePushed : State := (checked []).setSp 0xF3

/-! ### Construction and invariant -/

theorem wit_ConstructionLeavesSpecValues : ([1, 2, 3] : List Byte).length ≤ 256 := by decide
theorem wit_LatchesAreWrittenBeforeTheyAreRead :
    (State.reset.run = .running ∧ State.reset.pc.toNat ≤ 253) ∧
    (∃ t u, (State.reset.setPc 254).run = .running ∧ step (State.reset.setPc 254) = .next t ∧
      step ((State.reset.setPc 254).latch 1 2 3) = .next u) :=
  ⟨by decide, _, _, rfl, rfl, rfl⟩
theorem wit_ConstructionMeetsTheInvariant : ({ defaultConfig with stackCheck := true } : Config).wf := by decide
theorem wit_StepKeepsInvariant : ∃ t, State.reset.Inv ∧ step State.reset = .next t := ⟨_, reset_inv, rfl⟩
theorem wit_LoadKeepsInvariant : ∃ t, State.reset.Inv ∧ load [1, 2] State.reset = .next t := ⟨_, reset_inv, rfl⟩

/-! ### Encoding -/

theorem wit_EncodedInstructionDecodes :
    defaultOpcodes.wf ∧ 3 ≤ (Instr.ret).length + ([0xFF, 0x11] : List Byte).length ∧
    3 ≤ (Instr.ldi 255 255).length + ([] : List Byte).length := by decide
theorem wit_DecodedWindowReencodes :
    decodeWindow defaultOpcodes 0x47 0xFF 3 = some (.prn 0xFF) ∧
    ([0x47, 0xFF, 9] : List Byte).take (Instr.prn 0xFF).length = [0x47, 0xFF, 3].take (Instr.prn 0xFF).length := by
  decide

/-! ### The cycle -/

theorem wit_StepRunsTheDecodedInstruction :
    ((State.reset.setPc 253).placeAtPc [0x82, 8, 1]).run = .running ∧
    ((State.reset.setPc 253).placeAtPc [0x82, 8, 1]).pc.toNat ≤ 253 ∧
    decodeWindow defaultOpcodes (((State.reset.setPc 253).placeAtPc [0x82, 8, 1]).byteAt 253)
      (((State.reset.setPc 253).placeAtPc [0x82, 8, 1]).byteAt 254)
      (((State.reset.setPc 253).placeAtPc [0x82, 8, 1]).byteAt 255) = some (.ldi 8 1) := by decide
theorem wit_FetchPastTheTopFaults :
    (State.reset.setPc 254).run = .running ∧ 254 ≤ (State.reset.setPc 254).pc.toNat ∧
    (State.reset.setPc 256).pc.toNat ≤ 256 := by decide
theorem wit_UnmappedOpcodeFaults :
    (State.reset.run = .running ∧ State.reset.pc.toNat ≤ 253 ∧
      ∀ m, State.reset.cfg.opcodes.byte m ≠ State.reset.byteAt State.reset.pc.toNat) ∧ defaultOpcodes.wf :=
  ⟨⟨rfl, by decide, fun m => by cases m <;> decide⟩, by decide⟩
theorem wit_TerminalStatesNeverChange :
    State.reset.halt.run = .halted ∧
    (State.reset.run = .running ∧ State.reset.pc.toNat ≤ 253 ∧
      ∀ m, State.reset.cfg.opcodes.byte m ≠ State.reset.byteAt State.reset.pc.toNat) ∧
    ((State.reset.setPc 256).run = .running ∧ 254 ≤ (State.reset.setPc 256).pc.toNat ∧
      (State.reset.setPc 256).pc.toNat ≤ 256) :=
  ⟨rfl, ⟨rfl, by decide, fun m => by cases m <;> decide⟩, by decide⟩
/-- The second clause of the statement before: a window at 253 that decodes. -/
theorem wit_TerminalStatesNeverChange_cycle :
    ((State.reset.setPc 253).placeAtPc [0x01]).run = .running ∧
    ((State.reset.setPc 253).placeAtPc [0x01]).pc.toNat ≤ 253 ∧
    decodeWindow defaultOpcodes (((State.reset.setPc 253).placeAtPc [0x01]).byteAt 253)
      (((State.reset.setPc 253).placeAtPc [0x01]).byteAt 254)
      (((State.reset.setPc 253).placeAtPc [0x01]).byteAt 255) = some .hlt := by decide
theorem wit_CycleEndsInOneOfThreeWays : State.reset.run = .running ∧ State.reset.fault = none := by decide

/-! ### The instructions -/

theorem wit_LdiWritesTheImmediate :
    ((7 : Byte).toNat < 8 ∧ (State.reset.setPc 253).pc.toNat ≤ 253) ∧ 8 ≤ (8 : Byte).toNat := by decide
theorem wit_PrnEmitsTheRegister :
    ((7 : Byte).toNat < 8 ∧ (State.reset.setPc 253).pc.toNat ≤ 253) ∧ 8 ≤ (8 : Byte).toNat := by decide
theorem wit_MulWritesTheProductMod256 :
    ((0 : Byte).toNat < 8 ∧ (7 : Byte).toNat < 8 ∧ State.reset.pc.toNat ≤ 253) ∧
    (8 ≤ (0 : Byte).toNat ∨ 8 ≤ (8 : Byte).toNat) := by decide
theorem wit_AddWritesTheSumMod256 :
    ((7 : Byte).toNat < 8 ∧ (7 : Byte).toNat < 8 ∧ State.reset.pc.toNat ≤ 253) ∧
    (8 ≤ (255 : Byte).toNat ∨ 8 ≤ (0 : Byte).toNat) := by decide
theorem wit_PushStoresTheRegister :
    ((7 : Byte).toNat < 8 ∧ Memory.wf State.reset.mem ∧ State.reset.pc.toNat ≤ 253 ∧
      ((checked []).cfg.stackCheck = true → (checked []).cfg.stackLimit.toNat < ((checked []).setSp 1).sp.toNat)) ∧
    (atLimit.cfg.stackCheck = true ∧ atLimit.sp.toNat ≤ atLimit.cfg.stackLimit.toNat) ∧
    (8 ≤ (8 : Byte).toNat ∧ (State.reset.cfg.stackCheck = true →
      State.reset.cfg.stackLimit.toNat < State.reset.sp.toNat)) := by decide
theorem wit_PopLoadsTheRegister :
    ((0 : Byte).toNat < 8 ∧ onePushed.pc.toNat ≤ 253 ∧
      (onePushed.cfg.stackCheck = true → onePushed.sp.toNat < onePushed.cfg.spInit.toNat)) ∧
    ((checked []).cfg.stackCheck = true ∧ (checked []).cfg.spInit.toNat ≤ (checked []).sp.toNat) ∧
    (8 ≤ (8 : Byte).toNat ∧ (State.reset.cfg.stackCheck = true →
      State.reset.sp.toNat < State.reset.cfg.spInit.toNat)) := by decide
theorem wit_CallPushesTheReturnAddressAndJumps :
    ((7 : Byte).toNat < 8 ∧ Memory.wf onePushed.mem ∧ (onePushed.setPc 253).pc.toNat ≤ 253 ∧
      (onePushed.cfg.stackCheck = true → onePushed.cfg.stackLimit.toNat < onePushed.sp.toNat)) ∧
    (atLimit.cfg.stackCheck = true ∧ atLimit.sp.toNat ≤ atLimit.cfg.stackLimit.toNat) ∧
    8 ≤ (255 : Byte).toNat := by decide
theorem wit_RetPopsThePc :
    (onePushed.cfg.stackCheck = true → onePushed.sp.toNat < onePushed.cfg.spInit.toNat) ∧
    ((checked []).cfg.stackCheck = true ∧ (checked []).cfg.spInit.toNat ≤ (checked []).sp.toNat) := by decide
theorem wit_HltHalts :
    ∃ t u, ((State.reset.setPc 255).run = .running ∧ (State.reset.setPc 255).pc.toNat = 255 ∧
      step (State.reset.setPc 255) = .next t) ∧
    (State.reset.run = .running ∧ exec .hlt State.reset = .next u) :=
  ⟨_, _, ⟨rfl, by decide, rfl⟩, rfl, rfl⟩

/-! ### Frames -/

theorem wit_RegisterInstructionFrame :
    ∃ t u v, exec (.ldi 0 5) State.reset = .next t ∧ exec (.prn 8) State.reset = .next u ∧
      exec .hlt State.reset = .next v := ⟨_, _, _, rfl, rfl, rfl⟩
theorem wit_StackStoreFrame :
    ∃ t u, Memory.wf State.reset.mem ∧ exec (.push 7) State.reset = .next t ∧ exec (.call 8) State.reset = .next u :=
  ⟨_, _, by decide, rfl, rfl⟩
theorem wit_StackLoadFrame :
    ∃ t u, exec (.pop 0) State.reset = .next t ∧ exec .ret (checked []) = .next u := ⟨_, _, rfl, rfl⟩

/-! ### Rules about the whole machine -/

theorem wit_PcIsWrittenAsTabled :
    ∃ t u, (step State.reset = .next t ∧ State.reset.windowInstr = none ∧ t.run = .faulted) ∧
      (step (at0 [0x50, 1]) = .next u ∧ (at0 [0x50, 1]).windowInstr = some (.call 1) ∧ u.run ≠ .faulted) :=
  ⟨_, _, ⟨rfl, by decide, rfl⟩, rfl, by decide, by decide⟩
theorem wit_SpMovesByOneInStackInstructionsOnly :
    ∃ t, step ((at0 [0x45, 1]).setSp 0) = .next t ∧ t.sp ≠ ((at0 [0x45, 1]).setSp 0).sp ∧
      ∃ u, step (at0 [0x45, 8]) = .next u ∧ (at0 [0x45, 8]).fault = none ∧
        u.fault = record (.outOfBounds .register 8) 0 :=
  ⟨_, rfl, by decide, _, rfl, rfl, by decide⟩
theorem wit_RegistersChangeOnlyWhenNamed :
    ∃ t, step (at0 [0x82, 7, 1]) = .next t ∧ t.reg 7 ≠ (at0 [0x82, 7, 1]).reg 7 := ⟨_, rfl, by decide⟩
theorem wit_MemoryChangesOnlyAtThePushAddress :
    ∃ t, Memory.wf (at0 [0x45, 7]).mem ∧ step (at0 [0x45, 7]) = .next t ∧
      t.byteAt 0xF3 ≠ (at0 [0x45, 7]).byteAt 0xF3 := ⟨_, by decide, rfl, by decide⟩
theorem wit_OutputIsAppendedByPrnOnly : ∃ t, step (at0 [0x47, 7]) = .next t := ⟨_, rfl⟩
set_option maxRecDepth 4000 in
theorem wit_FaultRecordIsWrittenOnce :
    ∃ t u, (State.reset.Inv ∧ step State.reset = .next t) ∧
      (load (List.replicate 257 0) State.reset = .next u ∧ State.reset.fault = none ∧
        u.fault = some { info := .programTooLarge 257, pc := none }) :=
  ⟨_, _, ⟨reset_inv, rfl⟩, rfl, rfl, by decide⟩
theorem wit_CycleFaultsHaveTheListedCauses :
    ∃ t u, (State.reset.run = .running ∧ State.reset.fault = none ∧ State.reset.pc.toNat ≤ 256 ∧
      step State.reset = .next t ∧ t.fault = record (.illegalInstruction 0 0) 0) ∧
      (step (at0 [0xA2, 7, 8]) = .next u ∧ u.fault = record (.outOfBounds .register 8) 0) :=
  ⟨_, _, ⟨rfl, rfl, by decide, rfl, by decide⟩, rfl, by decide⟩
theorem wit_FaultLeavesOnlyTheListedEffects :
    ∃ t, Memory.wf (at0 [0x50, 8]).mem ∧ (at0 [0x50, 8]).run = .running ∧ step (at0 [0x50, 8]) = .next t ∧
      t.run = .faulted := ⟨_, by decide, rfl, rfl, rfl⟩
theorem wit_FirstFailingSubStepIsReported :
    ∃ t u v w, ((State.reset.setPc 255).pc.toNat = 255 ∧ step (State.reset.setPc 255) = .next t) ∧
      (8 ≤ (9 : Byte).toNat ∧ 8 ≤ (10 : Byte).toNat ∧ exec (.mul 9 10) State.reset = .next u) ∧
      (atLimit.cfg.stackCheck = true ∧ atLimit.sp.toNat ≤ atLimit.cfg.stackLimit.toNat ∧
        exec (.call 8) atLimit = .next v) ∧
      ((checked []).cfg.stackCheck = true ∧ (checked []).cfg.spInit.toNat ≤ (checked []).sp.toNat ∧
        exec (.pop 8) (checked []) = .next w) :=
  ⟨_, _, _, _, ⟨by decide, rfl⟩, ⟨by decide, by decide, rfl⟩, ⟨rfl, by decide, rfl⟩, rfl, by decide, rfl⟩
/-- The first clause of the statement before, its byte illegal. -/
theorem wit_FirstFailingSubStepIsReported_illegal :
    ∀ m, (State.reset.setPc 255).cfg.opcodes.byte m ≠ (State.reset.setPc 255).byteAt 255 :=
  fun m => by cases m <;> decide
theorem wit_StackCheckConfinesSp :
    ∃ t u, (atLimit.cfg.stackCheck = true ∧ atLimit.sp.toNat ≤ atLimit.cfg.stackLimit.toNat) ∧
      ((checked []).cfg.stackCheck = true ∧ (checked []).cfg.spInit.toNat ≤ (checked []).sp.toNat) ∧
      ((State.newMachine { defaultConfig with stackCheck := true }).Inv ∧
        step (State.newMachine { defaultConfig with stackCheck := true }) = .next t) ∧
      (State.reset.cfg.stackCheck = false ∧ State.reset.fault = none ∧ exec (.push 8) State.reset = .next u ∧
        u.fault = record (.outOfBounds .register 8) 0) :=
  ⟨_, _, by decide, by decide, ⟨checked_inv, rfl⟩, rfl, rfl, rfl, by decide⟩
theorem wit_StepKeepsTheParameters : ∃ t, step State.reset = .next t ∧ State.reset.begin.started = true :=
  ⟨_, rfl, rfl⟩
theorem wit_WellFormedInstructionNeverFaults :
    (Instr.push 7).wellFormed = true ∧ State.reset.cfg.stackCheck = false ∧ State.reset.run = .running := by decide

/-! ### Pairs, and code the stack overwrites -/

theorem wit_PushThenPopCopies :
    (0 : Byte).toNat < 8 ∧ (7 : Byte).toNat < 8 ∧ Memory.wf (checked []).mem ∧ ((checked []).setPc 251).pc.toNat ≤ 251 ∧
    ((checked []).cfg.stackCheck = true → (checked []).cfg.stackLimit.toNat < (checked []).sp.toNat ∧
      (checked []).sp.toNat ≤ (checked []).cfg.spInit.toNat) := by decide
theorem wit_CallThenRetResumes :
    (7 : Byte).toNat < 8 ∧ Memory.wf (checked []).mem ∧ ((checked []).setPc 253).pc.toNat ≤ 253 ∧
    ((checked []).cfg.stackCheck = true → (checked []).cfg.stackLimit.toNat < (checked []).sp.toNat ∧
      (checked []).sp.toNat ≤ (checked []).cfg.spInit.toNat) := by decide
theorem wit_PushThenRetJumps :
    (0 : Byte).toNat < 8 ∧ Memory.wf State.reset.mem ∧
    (State.reset.cfg.stackCheck = true → State.reset.cfg.stackLimit.toNat < State.reset.sp.toNat ∧
      State.reset.sp.toNat ≤ State.reset.cfg.spInit.toNat) := by decide
theorem wit_PushedByteIsFetchedNext :
    ∃ t u, (0 : Byte).toNat < 8 ∧ Memory.wf (at0 [0x45, 0]).mem ∧
      ((at0 [0x45, 0]).setSp 3).windowInstr = some (.push 0) ∧
      (((at0 [0x45, 0]).setSp 3).sp.toNat + 255) % 256 = (at0 [0x45, 0]).pc.toNat + 2 ∧
      step ((at0 [0x45, 0]).setSp 3) = .next t ∧ step t = .next u :=
  ⟨_, _, by decide, by decide, by decide, by decide, rfl, rfl⟩
theorem wit_LatchedOperandSurvivesTheStore :
    (1 : Byte).toNat < 8 ∧ Memory.wf (at0 [0x50, 1]).mem ∧ ((at0 [0x50, 1]).setSp 2).run = .running ∧
    ((at0 [0x50, 1]).setSp 2).windowInstr = some (.call 1) ∧ ((at0 [0x50, 1]).setSp 2).cfg.stackCheck = false ∧
    (((at0 [0x50, 1]).setSp 2).sp.toNat + 255) % 256 = ((at0 [0x50, 1]).setSp 2).pc.toNat + 1 := by decide

/-! ### What a result does not depend on -/

theorem wit_RegisterInstructionsIgnoreSp : ∃ t, exec (.mul 0 8) State.reset = .next t := ⟨_, rfl⟩
theorem wit_Register7IsNotSp :
    ∃ t u, (exec (.push 0) State.reset = .next t ∧ (0 : Byte).toNat ≠ 7) ∧ exec (.ldi 7 0x10) State.reset = .next u :=
  ⟨_, _, ⟨rfl, by decide⟩, rfl⟩
theorem wit_OpcodeBytesMatterToDecodingOnly : ∃ t, exec (.call 1) State.reset = .next t := ⟨_, rfl⟩
theorem wit_ArithmeticAgreesWithTwosComplement :
    ∃ t u, (7 : Byte).toNat < 8 ∧ (0 : Byte).toNat < 8 ∧ exec (.mul 7 0) State.reset = .next t ∧
      exec (.add 7 0) State.reset = .next u := ⟨_, _, by decide, by decide, rfl, rfl⟩

/-! ### Memory and the host's operations -/

theorem wit_MemoryReadsTheLastWrite : Memory.wf [(0, 5), (255, 6)] ∧ 255 ≤ 255 := by decide
theorem wit_CanonicalMemoryIsDeterminedByItsBytes : Memory.wf [(0, 5)] ∧ Memory.wf (Memory.write [] 0 5) ∧
    ∀ addr, addr ≤ 255 → Memory.read [(0, 5)] addr = Memory.read (Memory.write [] 0 5) addr :=
  ⟨by decide, by decide, fun _ _ => rfl⟩
theorem wit_LoadWritesExactlyThePrefix :
    Memory.wf State.reset.mem ∧ State.reset.started = false ∧ State.reset.run = .running ∧
    (List.replicate 256 (1 : Byte)).length ≤ 256 := ⟨by decide, rfl, rfl, Nat.le_of_eq List.length_replicate⟩
set_option maxRecDepth 4000 in
theorem wit_LoadOnlyBeforeTheFirstCycle :
    ∃ t u, (State.reset.run = .running ∧ step State.reset = .next t) ∧
      (Memory.wf State.reset.mem ∧ State.reset.started = false ∧ State.reset.run = .running ∧
        ([1, 2] : List Byte).length ≤ 256 ∧ (List.replicate 256 (3 : Byte)).length ≤ 256) ∧
      (256 < (List.replicate 257 (1 : Byte)).length ∧ load (List.replicate 257 1) State.reset = .next u) :=
  ⟨_, _, ⟨rfl, rfl⟩, ⟨by decide, rfl, rfl, by decide, Nat.le_of_eq List.length_replicate⟩,
    Nat.le_of_eq List.length_replicate.symm, rfl⟩
theorem wit_OversizedLoadFaults :
    State.reset.started = false ∧ State.reset.run = .running ∧ 256 < (List.replicate 257 (1 : Byte)).length :=
  ⟨rfl, rfl, Nat.le_of_eq List.length_replicate.symm⟩
theorem wit_RunIsRepeatedStep : State.reset.halt.ended := .inl rfl
theorem wit_AssembledStatementDecodes :
    defaultOpcodes.wf ∧
    (∃ w, (Asm.Value.label ['T']).byte [(['T'], 255)] = some w ∧
      Instr.ldi 7 255 = .ldi (BitVec.ofNat 8 (7 : RegIx).val) w) ∧
    (Asm.Value.label ['T']).byte [(['T'], 256)] = none ∧
    (∀ d ∈ ([(['U'], 3)] : Asm.Labels), d.1 ≠ ['T']) :=
  ⟨by decide, ⟨255, by decide, by decide⟩, by decide, by decide⟩

end Sys2Proof.Tests
end

section
/-! PROOFS. The parameters (00_scope.md rule R6): no step changes them, no instruction reads the opcode bytes,
and what they are by default. -/

namespace Sys2Proof.Machine

variable {s t : State} {i : Instr}

/-! ### What a step does to the parameters and to `started` -/

/-- No instruction touches the latches, the parameters, or whether a cycle has begun: each way of `Ran` is a
chain of updates to other fields. -/
theorem Ran.fixedPartsSame (h : Ran i s t) : FixedPartsSame s t := by
  cases h <;> exact ⟨rfl, rfl, rfl, rfl, rfl⟩

theorem Stepped.cfg_eq (h : Stepped s t) : t.cfg = s.cfg := by
  cases h with
  | terminal _ => rfl
  | fetchFault _ _ _ _ => rfl
  | illegal _ _ _ => rfl
  | ran _ _ _ hran =>
    obtain ⟨-, -, -, -, hcfg⟩ := hran.fixedPartsSame
    exact hcfg

/-- After a step a cycle has begun exactly if one had before or the machine was running (R263). -/
theorem Stepped.started_iff (h : Stepped s t) : t.started = true ↔ s.started = true ∨ s.run = .running := by
  cases h with
  | terminal hr => simp [hr]
  | fetchFault _ _ hr _ => simp [hr]
  | illegal hr _ _ => simp [hr, State.fetched]
  | ran hr _ _ hran =>
    obtain ⟨-, -, -, hstarted, -⟩ := hran.fixedPartsSame
    simp [hr, hstarted, State.fetched]

/-- Settles O37: a step keeps the parameters, and `started` after it is given by `Stepped.started_iff`. -/
theorem stepKeepsTheParameters : Obligations.StepKeepsTheParameters := by
  intro s t h
  have hs : Stepped s t := stepped_of_step h
  exact ⟨hs.cfg_eq, fun h => hs.started_iff.mpr (.inl h), fun h => hs.started_iff.mpr (.inr h)⟩

/-! ### Instructions under another opcode map -/

/-- The same state under another opcode map. -/
def State.withOpcodes (s : State) (o : OpcodeMap) : State := { s with cfg := { s.cfg with opcodes := o } }

/-- Under another opcode map an instruction goes the same way: the stack check's outcome and every value read
are those of the original state, so each way's own equation applies. -/
theorem Ran.exec_withOpcodes (h : Ran i s t) (o : OpcodeMap) :
    exec i (s.withOpcodes o) = .next (t.withOpcodes o) := by
  cases h with
  | ldi h => exact execLdi_ok h _ _
  | ldiBad h => exact execLdi_badReg h _ _
  | prn h => exact execPrn_ok h _
  | prnBad h => exact execPrn_badReg h _
  | mul ha hb => exact arith_ok ha hb mulMod _
  | mulBadA ha => exact arith_badA ha _ mulMod _
  | mulBadB ha hb => exact arith_badB ha hb mulMod _
  | add ha hb => exact arith_ok ha hb addMod _
  | addBadA ha => exact arith_badA ha _ addMod _
  | addBadB ha hb => exact arith_badB ha hb addMod _
  | pushBlocked h => exact execPush_blocked (s := s.withOpcodes o) h _
  | push hc h => exact execPush_ok (s := s.withOpcodes o) hc h
  | pushBad hc h => exact execPush_badReg (s := s.withOpcodes o) hc h
  | popBlocked h => exact execPop_blocked (s := s.withOpcodes o) h _
  | pop hc h => exact execPop_ok (s := s.withOpcodes o) hc h
  | popBad hc h => exact execPop_badReg (s := s.withOpcodes o) hc h
  | callBlocked h => exact execCall_blocked (s := s.withOpcodes o) h _
  | call hc h => exact execCall_ok (s := s.withOpcodes o) hc h
  | callBad hc h => exact execCall_badReg (s := s.withOpcodes o) hc h
  | retBlocked h => exact execRet_blocked (s := s.withOpcodes o) h
  | ret hc => exact execRet_ok (s := s.withOpcodes o) hc
  | hlt => rfl

/-- Settles O46: the next state is reached by a way of `Ran`, which is open under the other map too. -/
theorem opcodeBytesMatterToDecodingOnly : Obligations.OpcodeBytesMatterToDecodingOnly :=
  fun _ _ _ o h => (ran_of_exec h).exec_withOpcodes o

/-! ### The default parameters -/

/-- R87, bits 7:6: the operand bytes counted. -/
theorem defaultOpcodes_operandCount (m : Mnemonic) : (defaultOpcodes.byte m).toNat / 64 = m.length - 1 := by
  cases m <;> decide

/-- R87, bit 5: the arithmetic instructions. -/
theorem defaultOpcodes_bit5 (m : Mnemonic) : (defaultOpcodes.byte m).getLsbD 5 = true ↔ m = .mul ∨ m = .add := by
  cases m <;> decide

/-- R87, bit 4: the instructions that set the PC. -/
theorem defaultOpcodes_bit4 (m : Mnemonic) : (defaultOpcodes.byte m).getLsbD 4 = true ↔ m = .call ∨ m = .ret := by
  cases m <;> decide

/-- Settles O3: the parameters at reset are `defaultConfig` by definition, and the layout of its opcode bytes is
checked mnemonic by mnemonic. -/
theorem resetHasTheDefaultParameters : Obligations.ResetHasTheDefaultParameters :=
  ⟨rfl, fun m => ⟨defaultOpcodes_operandCount m, defaultOpcodes_bit5 m, defaultOpcodes_bit4 m⟩⟩

end Sys2Proof.Machine
end

section
/-! PROOFS. What a cycle writes (10_state.md): for each field of the state the ways an instruction, and then a step,
can change it, said once; the invariant and the rules about single fields follow from these. -/

namespace Sys2Proof

/-- The numbers of the registers an instruction may write: its first operand, where it has a destination (R21). -/
def Instr.written : Instr → List Nat
  | .ldi a _ | .mul a _ | .add a _ | .pop a => [a.toNat]
  | .prn _ | .push _ | .call _ | .ret | .hlt => []

end Sys2Proof

namespace Sys2Proof.Machine

variable {s t : State} {i : Instr}

/-! ### Registers and the output -/

theorem Ran.regsSameExcept (h : Ran i s t) : RegsSameExcept i.written s t := by
  cases h
  case ldi ha | mul ha _ | add ha _ | pop ha _ => exact RegsSameExcept.setReg s ⟨_, ha⟩ _
  all_goals exact .of_regs_eq rfl _

theorem Ran.out_eq_or_emitted (h : Ran i s t) :
    t.out = s.out ∨ ∃ (a : Byte) (ha : a.toNat < 8), i = .prn a ∧ t.out = s.out ++ [s.reg ⟨a.toNat, ha⟩] := by
  cases h
  case prn ha => exact .inr ⟨_, ha, rfl, rfl⟩
  all_goals exact .inl rfl

theorem Stepped.out_eq_or_emitted (h : Stepped s t) :
    t.out = s.out ∨
      ∃ (a : Byte) (ha : a.toNat < 8), s.windowInstr = some (.prn a) ∧ t.out = s.out ++ [s.reg ⟨a.toNat, ha⟩] := by
  cases h with
  | terminal _ => exact .inl rfl
  | fetchFault _ _ _ _ => exact .inl rfl
  | illegal _ _ _ => exact .inl rfl
  | ran _ _ hi hran =>
    obtain hout | ⟨a, ha, rfl, hout⟩ := hran.out_eq_or_emitted
    · exact .inl hout
    · exact .inr ⟨a, ha, hi, hout⟩

/-! ### Memory -/

/-- The one address an instruction stores at is the lowered SP, in PUSH and CALL (R52). -/
theorem Ran.mem_eq_or_pushed (h : Ran i s t) :
    t.mem = s.mem ∨ ∃ a v, (i = .push a ∨ i = .call a) ∧ t.mem = s.mem.write (decSp s.sp).toNat v := by
  cases h
  case push => exact .inr ⟨_, _, .inl rfl, rfl⟩
  case call | callBad => exact .inr ⟨_, _, .inr rfl, rfl⟩
  all_goals exact .inl rfl

theorem Ran.mem_wf (h : Ran i s t) (hm : s.mem.wf) : t.mem.wf := by
  obtain hmem | ⟨_, v, _, hmem⟩ := h.mem_eq_or_pushed
  · rwa [hmem]
  · rw [hmem]
    exact Memory.wf_write_byte hm _ v

theorem Stepped.mem_wf (h : Stepped s t) (hm : s.mem.wf) : t.mem.wf := by
  cases h with
  | terminal _ => exact hm
  | fetchFault _ _ _ _ => exact hm
  | illegal _ _ _ => exact hm
  | ran _ _ _ hran => exact hran.mem_wf hm

/-! ### SP -/

/-- The ways SP can go where `w` is the instruction run, if any: a PUSH or CALL that the stack check lets through
lowers it, a POP or RET that it lets through raises it, and nothing else moves it (R28, R170). -/
inductive SpMoved (w : Option Instr) (s t : State) : Prop
  | kept (h : t.sp = s.sp)
  | down {a : Byte} (hw : w = some (.push a) ∨ w = some (.call a)) (hc : s.pushBlocked = false)
      (h : t.sp = decSp s.sp)
  | up (hw : (∃ a, w = some (.pop a)) ∨ w = some .ret) (hc : s.popBlocked = false) (h : t.sp = incSp s.sp)

theorem Ran.spMoved (h : Ran i s t) : SpMoved (some i) s t := by
  cases h
  case push _ hc | pushBad _ hc => exact .down (.inl rfl) hc rfl
  case call _ hc | callBad _ hc => exact .down (.inr rfl) hc rfl
  case pop _ hc => exact .up (.inl ⟨_, rfl⟩) hc rfl
  case ret hc => exact .up (.inr rfl) hc rfl
  all_goals exact .kept rfl

theorem Stepped.spMoved (h : Stepped s t) : SpMoved s.windowInstr s t := by
  cases h with
  | terminal _ => exact .kept rfl
  | fetchFault _ _ _ _ => exact .kept rfl
  | illegal _ _ _ => exact .kept rfl
  | ran _ _ hi hran =>
    rw [hi]
    cases hran.spMoved with
    | kept h => exact .kept h
    | down hw hc h => exact .down hw hc h
    | up hw hc h => exact .up hw hc h

/-- A move of SP keeps it within the stack check's bounds (R170). -/
theorem SpMoved.stack_range {w : Option Instr} (h : SpMoved w s t) (hc : s.cfg.stackCheck = true)
    (hs : s.cfg.stackLimit.toNat ≤ s.sp.toNat ∧ s.sp.toNat ≤ s.cfg.spInit.toNat) :
    s.cfg.stackLimit.toNat ≤ t.sp.toNat ∧ t.sp.toNat ≤ s.cfg.spInit.toNat := by
  obtain ⟨hlo, hhi⟩ := hs
  cases h with
  | kept h => rw [h]; exact ⟨hlo, hhi⟩
  | down _ hpass h =>
    have hlt := pushBlocked_eq_false.mp hpass hc
    rw [h, decSp_toNat_of_pos (by omega)]
    omega
  | up _ hpass h =>
    have hlt := popBlocked_eq_false.mp hpass hc
    have := byte_le s.cfg.spInit
    rw [h, incSp_toNat_of_lt (by omega)]
    omega

/-! ### Run state and fault record -/

/-- Whether a cycle can raise a fault of this kind: never `ProgramTooLarge`, which is `load`'s (R264), and a stack
fault only with the stack check on (R170). -/
def State.CanRaise (s : State) (k : FaultKind) : Prop :=
  k ≠ .programTooLarge ∧ (s.cfg.stackCheck = false → k ≠ .stackOverflow ∧ k ≠ .stackUnderflow)

theorem canRaise_outOfBounds (s : State) : s.CanRaise .outOfBounds := ⟨by decide, fun _ => by decide⟩

theorem canRaise_illegalInstruction (s : State) : s.CanRaise .illegalInstruction := ⟨by decide, fun _ => by decide⟩

theorem canRaise_of_stackCheck {k : FaultKind} (hk : k ≠ .programTooLarge) (hc : s.cfg.stackCheck = true) :
    s.CanRaise k :=
  ⟨hk, fun hoff => by simp [hc] at hoff⟩

/-- An instruction raises a fault, with the PC unmoved, or leaves the record, and then only HLT changes the run
state (R99, R222). -/
theorem Ran.raised_or_kept (h : Ran i s t) :
    (∃ info, FaultedWith info s t ∧ s.CanRaise info.kind) ∨
      (t.fault = s.fault ∧ (t.run = s.run ∨ t.run = .halted)) := by
  cases h
  case pushBlocked h | callBlocked h =>
    exact .inl ⟨_, ⟨rfl, rfl, rfl⟩, canRaise_of_stackCheck nofun (pushBlocked_eq_true.mp h).1⟩
  case popBlocked h | retBlocked h =>
    exact .inl ⟨_, ⟨rfl, rfl, rfl⟩, canRaise_of_stackCheck nofun (popBlocked_eq_true.mp h).1⟩
  case ldiBad | prnBad | mulBadA | mulBadB | addBadA | addBadB | pushBad | popBad | callBad =>
    exact .inl ⟨_, ⟨rfl, rfl, rfl⟩, canRaise_outOfBounds s⟩
  case hlt => exact .inr ⟨rfl, .inr rfl⟩
  all_goals exact .inr ⟨rfl, .inl rfl⟩

theorem Stepped.raised_or_kept (h : Stepped s t) :
    (∃ info, FaultedWith info s t ∧ s.CanRaise info.kind) ∨
      (t.fault = s.fault ∧ (t.run = s.run ∨ t.run = .halted)) := by
  cases h with
  | terminal _ => exact .inr ⟨rfl, .inl rfl⟩
  | fetchFault _ _ _ _ => exact .inl ⟨_, ⟨rfl, rfl, rfl⟩, canRaise_outOfBounds s⟩
  | illegal _ _ _ => exact .inl ⟨_, ⟨rfl, rfl, rfl⟩, canRaise_illegalInstruction s⟩
  | ran _ _ _ hran => exact hran.raised_or_kept

/-! ### The PC -/

/-- The table of R25: where the PC stands in `t` after an instruction run on `s` that raised nothing. -/
def PcTabled (i : Instr) (s t : State) : Prop :=
  match i with
  | .ldi _ _ | .mul _ _ | .add _ _ => t.pc.toNat = s.pc.toNat + 3
  | .prn _ | .push _ | .pop _ => t.pc.toNat = s.pc.toNat + 2
  | .call a => ∃ h : a.toNat < 8, t.pc.toNat = (s.reg ⟨a.toNat, h⟩).toNat
  | .ret => t.pc.toNat = (s.byteAt s.sp.toNat).toNat
  | .hlt => t.pc = s.pc

/-- A byte fits the PC (R25). -/
theorem setPc_byte_toNat (s : State) (b : Byte) : (s.setPc b.toNat).pc.toNat = b.toNat :=
  setPc_toNat (Nat.le_succ_of_le (byte_le b)) s

theorem Ran.pcTabled (h : Ran i s t) (hpc : s.pc.toNat ≤ 253) (hf : t.run ≠ .faulted) : PcTabled i s t := by
  cases h
  case ldi | mul | add | prn | push | pop => exact setPc_toNat (by omega) _
  case call ha _ => exact ⟨ha, setPc_byte_toNat _ _⟩
  case ret => exact setPc_byte_toNat _ _
  case hlt => rfl
  all_goals exact absurd rfl hf

theorem PcTabled.pc_le (h : PcTabled i s t) (hpc : s.pc.toNat ≤ 253) : t.pc.toNat ≤ 256 := by
  cases i with
  | ldi _ _ | mul _ _ | add _ _ | prn _ | push _ | pop _ =>
    simp only [PcTabled] at h
    omega
  | call a =>
    obtain ⟨_, h⟩ := h
    exact h.trans_le (Nat.le_succ_of_le (byte_le _))
  | ret => exact h.trans_le (Nat.le_succ_of_le (byte_le _))
  | hlt =>
    have h : t.pc = s.pc := h
    rw [h]
    omega

/-- A cycle that faults leaves the PC (R222). -/
theorem Stepped.pc_eq_of_faulted (h : Stepped s t) (hf : t.run = .faulted) : t.pc = s.pc := by
  by_cases hr : s.run = .running
  · obtain ⟨_, ⟨_, _, hpc⟩, _⟩ | ⟨_, hrun | hrun⟩ := h.raised_or_kept
    · exact hpc
    · simp [hf, hr] at hrun
    · simp [hf] at hrun
  · cases h with
    | terminal _ => rfl
    | fetchFault _ _ hr' _ | illegal hr' _ _ | ran hr' _ _ _ => exact absurd hr' hr

theorem Stepped.pcTabled (h : Stepped s t) (hr : s.run = .running) (hi : s.windowInstr = some i)
    (hf : t.run ≠ .faulted) : PcTabled i s t := by
  cases h with
  | terminal hr' => exact absurd hr hr'
  | fetchFault _ _ _ _ => exact absurd rfl hf
  | illegal _ _ _ => exact absurd rfl hf
  | ran _ hpc hi' hran =>
    cases hi.symm.trans hi'
    exact hran.pcTabled hpc hf

end Sys2Proof.Machine
end

section
/-! PROOFS. The invariant: it holds at construction and every step keeps it. -/

namespace Sys2Proof.Machine

variable {s t : State}

theorem Stepped.eq_of_terminal (h : Stepped s t) (hr : s.run ≠ .running) : t = s := by
  cases h with
  | terminal _ => rfl
  | fetchFault _ _ hr' _ | illegal hr' _ _ | ran hr' _ _ _ => exact absurd hr' hr

/-- There is no record outside FAULTED (R36). -/
theorem State.Inv.fault_eq_none (h : s.Inv) (hr : s.run ≠ .faulted) : s.fault = none := by
  simpa [h.fault_iff] using hr

/-- A cycle that began within the PC's range ends within it (R24, R25). -/
theorem Stepped.pc_le (h : Stepped s t) (hpc : s.pc.toNat ≤ 256) : t.pc.toNat ≤ 256 := by
  cases h with
  | terminal _ => exact hpc
  | fetchFault _ _ _ _ => exact hpc
  | illegal _ _ _ => exact hpc
  | ran hr hpc' hi hran =>
    by_cases hf : t.run = .faulted
    · rw [(Stepped.ran hr hpc' hi hran).pc_eq_of_faulted hf]
      exact hpc
    · exact (hran.pcTabled hpc' hf).pc_le hpc'

/-- A cycle of a machine that meets the invariant ends in a state that meets it. -/
theorem Stepped.inv_of_running (h : Stepped s t) (hs : s.Inv) (hr : s.run = .running) : t.Inv := by
  have hstarted : t.started = true := h.started_iff.mpr (.inr hr)
  have hnone : s.fault = none := hs.fault_eq_none (by simp [hr])
  exact {
    mem_wf := h.mem_wf hs.mem_wf
    pc_le := h.pc_le hs.pc_le
    cfg_wf := h.cfg_eq ▸ hs.cfg_wf
    fault_iff := by
      obtain ⟨_, ⟨hrun, hfault, _⟩, _⟩ | ⟨hfault, hrun | hrun⟩ := h.raised_or_kept <;>
        simp [hfault, hrun, hnone, hr]
    stack_range := by
      rw [h.cfg_eq]
      exact fun hc => h.spMoved.stack_range hc (hs.stack_range hc)
    record_pc := by
      intro r hrec
      obtain ⟨info, ⟨_, hfault, hpc⟩, hkind, _⟩ | ⟨hfault, _⟩ := h.raised_or_kept
      · cases hrec.symm.trans hfault
        exact .inr ⟨hkind, by rw [hpc], hstarted⟩
      · simp [hfault, hnone] at hrec
    fresh := fun hnot => by simp [hstarted] at hnot }

theorem Stepped.inv (h : Stepped s t) (hs : s.Inv) : t.Inv := by
  by_cases hr : s.run = .running
  · exact h.inv_of_running hs hr
  · rwa [h.eq_of_terminal hr]

/-- Settles O5: a terminal state stays, and a cycle's writes, field by field, keep each clause. -/
theorem stepKeepsInvariant : Obligations.StepKeepsInvariant :=
  fun _ _ hs h => (stepped_of_step h).inv hs

theorem newMachine_inv {cfg : Config} (h : cfg.wf) : (State.newMachine cfg).Inv where
  mem_wf := ⟨.nil, by simp [State.newMachine]⟩
  pc_le := by simp [State.newMachine]
  cfg_wf := h
  fault_iff := by simp [State.newMachine]
  stack_range := fun _ => ⟨BitVec.le_def.mp h.2, le_rfl⟩
  record_pc := nofun
  fresh := fun _ => ⟨rfl, rfl, rfl, nofun⟩

theorem defaultConfig_wf : defaultConfig.wf := ⟨defaultOpcodes_wf, by decide⟩

/-- Settles O4: every part of a new machine is a literal, and SP starts at SP_INIT, the upper bound. -/
theorem constructionMeetsTheInvariant : Obligations.ConstructionMeetsTheInvariant :=
  ⟨fun _ => newMachine_inv, newMachine_inv defaultConfig_wf⟩

end Sys2Proof.Machine
end

section
/-! PROOFS. Who writes which field (10_state.md rules R21, R25, R28, R36): the statements, each from the lemma above
about its field. -/

namespace Sys2Proof.Machine

variable {s t : State} {i : Instr}

/-! ### The PC -/

/-- Settles O27: a terminal state, an undecoded window and a fault leave the PC, and otherwise the instruction
writes it by `PcTabled`, which is the statement's table. -/
theorem pcIsWrittenAsTabled : Obligations.PcIsWrittenAsTabled := by
  intro s t h
  have hs : Stepped s t := stepped_of_step h
  refine ⟨fun hcase => ?_, fun i hr hi hf => ?_⟩
  · cases hs with
    | terminal _ => rfl
    | fetchFault _ _ _ _ => rfl
    | illegal _ _ _ => rfl
    | ran hr hpc hi hran =>
      have hf : t.run = .faulted := by simpa [hr, hi] using hcase
      exact (Stepped.ran hr hpc hi hran).pc_eq_of_faulted hf
  · have htab := hs.pcTabled hr hi hf
    cases i <;> exact htab

/-! ### SP -/

/-- Settles O28: a move of SP is one of `SpMoved`, and a cycle's fault is of a kind that it can raise. -/
theorem spMovesByOneInStackInstructionsOnly : Obligations.SpMovesByOneInStackInstructionsOnly := by
  intro s t h
  have hs : Stepped s t := stepped_of_step h
  refine ⟨fun hne => ?_, fun _ hc hnone r hrec => ?_⟩
  · cases hs.spMoved with
    | kept hsp => exact absurd hsp hne
    | down hw _ hsp => exact .inl ⟨_, hw, by rw [hsp, decSp_toNat]⟩
    | up hw _ hsp => exact .inr ⟨hw, by rw [hsp, incSp_toNat]⟩
  · obtain ⟨info, ⟨_, hfault, _⟩, _, hstack⟩ | ⟨hfault, _⟩ := hs.raised_or_kept
    · cases hrec.symm.trans hfault
      exact hstack hc
    · simp [hfault, hnone] at hrec

/-! ### Registers -/

theorem Stepped.reg_changed {j : RegIx} (h : Stepped s t) (hne : t.reg j ≠ s.reg j) :
    s.run = .running ∧ ∃ i, s.windowInstr = some i ∧ j.val ∈ i.written := by
  cases h with
  | terminal _ => exact absurd rfl hne
  | fetchFault _ _ _ _ => exact absurd rfl hne
  | illegal _ _ _ => exact absurd rfl hne
  | ran hr _ hi hran => exact ⟨hr, _, hi, by_contra fun hj => hne (hran.regsSameExcept j hj)⟩

/-- Settles O29: the register changed is one that the instruction in the window may write. -/
theorem registersChangeOnlyWhenNamed : Obligations.RegistersChangeOnlyWhenNamed := by
  intro s t j h hne
  obtain ⟨hr, i, hi, hj⟩ := (stepped_of_step h).reg_changed hne
  refine ⟨hr, ?_⟩
  cases i with
  | ldi a x => exact ⟨a, x, (List.mem_singleton.mp hj).symm, .inl hi⟩
  | mul a x => exact ⟨a, x, (List.mem_singleton.mp hj).symm, .inr (.inl hi)⟩
  | add a x => exact ⟨a, x, (List.mem_singleton.mp hj).symm, .inr (.inr (.inl hi))⟩
  | pop a => exact ⟨a, 0, (List.mem_singleton.mp hj).symm, .inr (.inr (.inr hi))⟩
  | prn _ | push _ | call _ | ret | hlt => cases hj

/-! ### The frame of LDI, PRN, MUL, ADD and HLT -/

/-- Whether an instruction uses the stack: PUSH, POP, CALL and RET do (R28). -/
def UsesStack : Instr → Prop
  | .push _ | .pop _ | .call _ | .ret => True
  | .ldi _ _ | .prn _ | .mul _ _ | .add _ _ | .hlt => False

theorem not_usesStack_of_registerInstr
    (h : i = .hlt ∨ (∃ a, i = .prn a) ∨ ∃ a x, i = .ldi a x ∨ i = .mul a x ∨ i = .add a x) : ¬ UsesStack i := by
  obtain rfl | ⟨a, rfl⟩ | ⟨a, x, rfl | rfl | rfl⟩ := h <;> exact id

theorem Ran.mem_eq_of_not_usesStack (h : Ran i s t) (hi : ¬ UsesStack i) : t.mem = s.mem := by
  obtain hmem | ⟨a, _, rfl | rfl, _⟩ := h.mem_eq_or_pushed
  · exact hmem
  · exact absurd trivial hi
  · exact absurd trivial hi

theorem Ran.sp_eq_of_not_usesStack (h : Ran i s t) (hi : ¬ UsesStack i) : t.sp = s.sp := by
  cases h.spMoved with
  | kept hsp => exact hsp
  | down hw _ _ => obtain hw | hw := hw <;> cases hw <;> exact absurd trivial hi
  | up hw _ _ => obtain ⟨_, hw⟩ | hw := hw <;> cases hw <;> exact absurd trivial hi

theorem Ran.out_eq_of_ne_prn (h : Ran i s t) (hi : ∀ a, i ≠ .prn a) : t.out = s.out := by
  obtain hout | ⟨a, _, hprn, _⟩ := h.out_eq_or_emitted
  · exact hout
  · exact absurd hprn (hi a)

/-- Settles O24: none of these uses the stack, so memory and SP stay; the registers written are those of
`Instr.written`, and only PRN emits. -/
theorem registerInstructionFrame : Obligations.RegisterInstructionFrame := by
  intro s t i h hi
  have hran : Ran i s t := ran_of_exec h
  have hstack : ¬ UsesStack i := not_usesStack_of_registerInstr hi
  refine ⟨.of_mem_eq (hran.mem_eq_of_not_usesStack hstack) _, hran.sp_eq_of_not_usesStack hstack,
    hran.fixedPartsSame, ?_, ?_, ?_⟩
  · rintro a x (rfl | rfl | rfl) <;> exact ⟨hran.regsSameExcept, hran.out_eq_of_ne_prn nofun⟩
  · rintro a rfl
    exact hran.regsSameExcept
  · rintro rfl
    cases hran
    exact ⟨.of_regs_eq rfl _, rfl, rfl⟩

/-! ### The fault record -/

/-- What an accepted `load` can do: leave a machine that an earlier one has faulted, fault on an image over 256
bytes, or write the image and nothing else; and it is accepted before the first cycle only (R262 to R264). -/
theorem load_cases {bytes : List Byte} (h : load bytes s = .next t) :
    s.started = false ∧
      ((s.run ≠ .running ∧ t = s) ∨
       (s.run = .running ∧ 256 < bytes.length ∧ t = s.faultWith (.programTooLarge bytes.length) none) ∨
       (s.run = .running ∧ bytes.length ≤ 256 ∧ t = { s with mem := s.mem.writeMany 0 bytes })) := by
  unfold load at h
  split at h
  · cases h
  next hst =>
    refine ⟨by simpa using hst, ?_⟩
    split at h
    next hr =>
      cases h
      exact .inl ⟨by simpa [State.runningFlag] using hr, rfl⟩
    next hr =>
      have hr : s.run = .running := by simpa [State.runningFlag] using hr
      split at h
      next hlen =>
        cases h
        exact .inr (.inl ⟨hr, hlen, rfl⟩)
      next hlen =>
        cases h
        exact .inr (.inr ⟨hr, by omega, rfl⟩)

/-- A state that meets the invariant and holds a record is not running. -/
theorem State.Inv.not_running {r : FaultRecord} (h : s.Inv) (hrec : s.fault = some r) : s.run ≠ .running := by
  have hf : s.run = .faulted := h.fault_iff.mpr (by simp [hrec])
  simp [hf]

/-- Settles O32: a machine with a record is in a terminal state, which no step and no accepted `load` changes; a
step writes a record exactly on entering FAULTED because the next state meets the invariant too. -/
theorem faultRecordIsWrittenOnce : Obligations.FaultRecordIsWrittenOnce := by
  refine ⟨fun _ => rfl, fun s t hs h => ⟨fun r hrec => ?_, fun _ => ?_⟩,
    fun bytes s t hs h => ⟨fun r hrec => ?_, fun hnone r hrec => ?_⟩⟩
  · rwa [(stepped_of_step h).eq_of_terminal (hs.not_running hrec)]
  · exact ((stepped_of_step h).inv hs).fault_iff.symm
  · obtain ⟨_, ⟨_, rfl⟩ | ⟨hr, _⟩ | ⟨hr, _⟩⟩ := load_cases h
    · exact hrec
    · exact absurd hr (hs.not_running hrec)
    · exact absurd hr (hs.not_running hrec)
  · obtain ⟨hst, ⟨_, rfl⟩ | ⟨_, _, rfl⟩ | ⟨_, _, rfl⟩⟩ := load_cases h
    · simp [hnone] at hrec
    · cases hrec
      exact ⟨rfl, rfl, hst⟩
    · simp [hnone] at hrec

end Sys2Proof.Machine
end

section
/-! PROOFS. What a cycle does not read: the latches it has not written (10_state.md rule R34) and the output (R35).
With them, what construction leaves (R37). -/

namespace Sys2Proof.Machine

variable {s t : State} {i : Instr}

/-! ### The fetch, latch by latch -/

/-- A cycle whose window lies in memory decodes the fetched state (R96). -/
theorem step_of_le (hr : s.run = .running) (hpc : s.pc.toNat ≤ 253) : step s = decodeAndRun s.fetched := by
  rw [step, if_pos (s.runningFlag_iff.mpr hr), fetch_of_le (by exact hpc)]
  rfl

/-- The state in which a fetch that leaves memory faults: the bytes read before the failing read are latched
(R13, log entry 9). -/
def State.partFetched (s : State) : State :=
  s.begin.latch (if s.pc.toNat ≤ 255 then s.byteAt s.pc.toNat else s.ir)
    (if s.pc.toNat ≤ 254 then s.byteAt (s.pc.toNat + 1) else s.opA) s.opB

/-- A cycle whose window leaves memory faults in the partly fetched state (R97). -/
theorem step_of_gt (hr : s.run = .running) (hpc : 253 < s.pc.toNat) :
    step s = .next (s.partFetched.raised (.outOfBounds .memory (max s.pc.toNat 256))) := by
  rw [step, if_pos (s.runningFlag_iff.mpr hr), fetch, State.begin_pc]
  rcases Nat.lt_or_ge 255 s.pc.toNat with h1 | h1
  · rw [memRead_of_gt h1, State.partFetched, if_neg (by omega), if_neg (by omega), max_eq_left (by omega)]
    rfl
  · rw [memRead_of_le h1, max_eq_right (by omega)]
    rcases Nat.lt_or_ge 254 s.pc.toNat with h2 | h2
    · rw [memRead_of_gt (by omega), State.partFetched, if_pos h1, if_neg (by omega),
        show s.pc.toNat + 1 = 256 by omega]
      rfl
    · rw [memRead_of_le (by omega), memRead_of_gt (by omega), State.partFetched, if_pos h1, if_pos h2,
        show s.pc.toNat + 2 = 256 by omega]
      rfl

/-! ### The latches -/

theorem step_latch_of_le (hr : s.run = .running) (hpc : s.pc.toNat ≤ 253) (x y z : Byte) :
    step (s.latch x y z) = step s := by
  rw [step_of_le hr hpc, step_of_le (s := s.latch x y z) hr hpc]
  rfl

/-- Settles O2: a whole fetch writes every latch before decoding, and one that fails decodes nothing. -/
theorem latchesAreWrittenBeforeTheyAreRead : Obligations.LatchesAreWrittenBeforeTheyAreRead := by
  intro s x y z hr
  refine ⟨fun hpc => step_latch_of_le hr hpc x y z, fun t u ht hu => ?_⟩
  rcases Nat.lt_or_ge 253 s.pc.toNat with hpc | hpc
  · rw [step_of_gt hr hpc] at ht
    rw [step_of_gt (s := s.latch x y z) hr hpc] at hu
    cases ht
    cases hu
    rfl
  · rw [step_latch_of_le hr hpc, ht] at hu
    cases hu
    rfl

/-! ### Construction -/

theorem newMachine_reg (cfg : Config) (j : RegIx) :
    (State.newMachine cfg).reg j = if j.val = 7 then cfg.spInit else 0 := by
  fin_cases j <;> rfl

/-- `load` of an image that fits, before the first cycle (R262). -/
theorem load_of_le {bytes : List Byte} (hst : s.started = false) (hr : s.run = .running)
    (hlen : bytes.length ≤ 256) : load bytes s = .next { s with mem := s.mem.writeMany 0 bytes } := by
  rw [load, if_neg (by simp [hst]), if_neg (by simp [State.runningFlag, hr]), if_neg (by omega)]

/-- The image reads back from address 0 on (R262). -/
theorem read_writeMany_zero {m : Memory} (hm : m.wf) {bytes : List Byte} (hlen : bytes.length ≤ 256) (k : Nat)
    (hk : k < bytes.length) : Memory.read (m.writeMany 0 bytes) k = bytes[k] := by
  rw [Memory.read_writeMany hm bytes (by omega)]
  simp [hk]

/-- Settles O1. The latches clause is `step_latch_of_le` at PC 0, and the image reads back by
`read_writeMany_zero`. -/
theorem constructionLeavesSpecValues : Obligations.ConstructionLeavesSpecValues := by
  intro cfg
  refine ⟨newMachine_reg cfg, rfl, rfl, fun _ _ => rfl, rfl, rfl, rfl,
    fun x y z => step_latch_of_le (s := .newMachine cfg) rfl (Nat.zero_le 253) x y z, fun bytes hlen => ?_⟩
  exact ⟨_, load_of_le rfl rfl hlen, read_writeMany_zero ⟨.nil, nofun⟩ hlen⟩

/-! ### The output -/

/-- The same state with another output. -/
def State.withOut (s : State) (l : List Byte) : State := { s with out := l }

/-- The converse of `ran_of_exec`: a way's next state is what `exec` answers. `Ran.exec_withOpcodes` gives it, under
the state's own opcode map. -/
theorem Ran.exec_eq (h : Ran i s t) : exec i s = .next t := by
  obtain ⟨_, _, _, _, hcfg⟩ := h.fixedPartsSame
  have hself : t.withOpcodes s.cfg.opcodes = t := by rw [← hcfg]; rfl
  exact (h.exec_withOpcodes s.cfg.opcodes).trans (congrArg _ hself)

/-- With another output an instruction goes the same way: no way of `Ran` depends on the output. -/
theorem Ran.withOut (h : Ran i s t) (l : List Byte) :
    ∃ t', Ran i (s.withOut l) t' ∧ t'.withOut t.out = t := by
  cases h with
  | ldi h => exact ⟨_, .ldi h, rfl⟩
  | ldiBad h => exact ⟨_, .ldiBad h, rfl⟩
  | prn h => exact ⟨_, .prn h, rfl⟩
  | prnBad h => exact ⟨_, .prnBad h, rfl⟩
  | mul ha hb => exact ⟨_, .mul ha hb, rfl⟩
  | mulBadA ha => exact ⟨_, .mulBadA ha, rfl⟩
  | mulBadB ha hb => exact ⟨_, .mulBadB ha hb, rfl⟩
  | add ha hb => exact ⟨_, .add ha hb, rfl⟩
  | addBadA ha => exact ⟨_, .addBadA ha, rfl⟩
  | addBadB ha hb => exact ⟨_, .addBadB ha hb, rfl⟩
  | pushBlocked h => exact ⟨_, .pushBlocked h, rfl⟩
  | push hc h => exact ⟨_, .push (s := s.withOut l) hc h, rfl⟩
  | pushBad hc h => exact ⟨_, .pushBad hc h, rfl⟩
  | popBlocked h => exact ⟨_, .popBlocked h, rfl⟩
  | pop hc h => exact ⟨_, .pop (s := s.withOut l) hc h, rfl⟩
  | popBad hc h => exact ⟨_, .popBad hc h, rfl⟩
  | callBlocked h => exact ⟨_, .callBlocked h, rfl⟩
  | call hc h => exact ⟨_, .call (s := s.withOut l) hc h, rfl⟩
  | callBad hc h => exact ⟨_, .callBad hc h, rfl⟩
  | retBlocked h => exact ⟨_, .retBlocked h, rfl⟩
  | ret hc => exact ⟨_, .ret hc, rfl⟩
  | hlt => exact ⟨_, .hlt, rfl⟩

theorem step_withOut (h : step s = .next t) (l : List Byte) :
    ∃ t', step (s.withOut l) = .next t' ∧ t'.withOut t.out = t := by
  cases stepped_of_step h with
  | terminal hr => exact ⟨_, step_terminal (s := s.withOut l) hr, rfl⟩
  | fetchFault x y hr hpc =>
    rw [step_of_gt hr hpc] at h
    injection h with h
    exact ⟨_, step_of_gt (s := s.withOut l) hr hpc, h⟩
  | illegal hr hpc hi => exact ⟨_, step_of_illegal (s := s.withOut l) hr hpc hi, rfl⟩
  | ran hr _ hi hran =>
    obtain ⟨t', hran', hsame⟩ := hran.withOut l
    exact ⟨t', (step_of_instr (s := s.withOut l) hr hi).trans hran'.exec_eq, hsame⟩

/-- Settles O31: it starts empty, `Stepped.out_eq_or_emitted` says what appends to it, and `step_withOut` that
nothing reads it. -/
theorem outputIsAppendedByPrnOnly : Obligations.OutputIsAppendedByPrnOnly :=
  ⟨fun _ => rfl, fun _ _ h => (stepped_of_step h).out_eq_or_emitted, fun _ _ l h => step_withOut h l⟩

end Sys2Proof.Machine
end

section
/-! PROOFS. SP and register 7 are separate (10_state.md rules R22, R27, R30): a register instruction goes the same way
with another SP, and a stack instruction with another register 7 that it does not name. -/

namespace Sys2Proof.Machine

variable {s t : State} {i : Instr}

/-! ### Another SP -/

theorem Ran.setSp (h : Ran i s t) (hi : ¬ UsesStack i) (x : Byte) : Ran i (s.setSp x) (t.setSp x) := by
  cases h with
  | ldi h => exact .ldi h
  | ldiBad h => exact .ldiBad h
  | prn h => exact .prn h
  | prnBad h => exact .prnBad h
  | mul ha hb => exact .mul ha hb
  | mulBadA ha => exact .mulBadA ha
  | mulBadB ha hb => exact .mulBadB ha hb
  | add ha hb => exact .add ha hb
  | addBadA ha => exact .addBadA ha
  | addBadB ha hb => exact .addBadB ha hb
  | hlt => exact .hlt
  | _ => exact absurd trivial hi

/-- Settles O44: the instruction goes the same way of `Ran` with the other SP. -/
theorem registerInstructionsIgnoreSp : Obligations.RegisterInstructionsIgnoreSp :=
  fun _ _ _ x h hi => ((ran_of_exec h).setSp (not_usesStack_of_registerInstr hi) x).exec_eq

/-! ### Another register 7 -/

/-- Writes to different registers commute. -/
theorem State.setReg_comm {j k : RegIx} (h : j ≠ k) (s : State) (v w : Byte) :
    (s.setReg j v).setReg k w = (s.setReg k w).setReg j v := by
  simp only [State.setReg, Vector.set_comm v w (Fin.val_ne_of_ne h)]

/-- A PUSH, POP or CALL that does not name register 7, or a RET: one that register 7 cannot concern (R22). -/
def StackAvoidsReg7 (i : Instr) : Prop :=
  i = .ret ∨ ∃ a : Byte, a.toNat ≠ 7 ∧ (i = .push a ∨ i = .pop a ∨ i = .call a)

theorem Ran.setReg7 (h : Ran i s t) (hi : StackAvoidsReg7 i) (v : Byte) :
    Ran i (s.setReg 7 v) (t.setReg 7 v) := by
  obtain rfl | ⟨a, h7, rfl | rfl | rfl⟩ := hi
  · cases h with
    | retBlocked h => exact .retBlocked h
    | ret hc => exact .ret (s := s.setReg 7 v) hc
  · cases h with
    | pushBlocked h => exact .pushBlocked h
    | push hc h =>
      rw [← State.setReg_reg_ne s (regIx_ne_seven h7) v]
      exact .push (s := s.setReg 7 v) hc h
    | pushBad hc h => exact .pushBad hc h
  · cases h with
    | popBlocked h => exact .popBlocked h
    | pop hc h =>
      have hran := Ran.pop (s := s.setReg 7 v) hc h
      rwa [State.setReg_comm (regIx_ne_seven h7).symm] at hran
    | popBad hc h => exact .popBad hc h
  · cases h with
    | callBlocked h => exact .callBlocked h
    | call hc h =>
      rw [← State.setReg_reg_ne s (regIx_ne_seven h7) v]
      exact .call (s := s.setReg 7 v) hc h
    | callBad hc h => exact .callBad hc h

/-- Settles O45: a stack instruction goes the same way of `Ran` with another register 7, and LDI, MUL and ADD
do not move SP, whichever register they name. -/
theorem register7IsNotSp : Obligations.Register7IsNotSp := by
  refine ⟨fun s t i v h hi => ((ran_of_exec h).setReg7 hi v).exec_eq, fun s t i x h hi => ?_⟩
  have hstack : ¬ UsesStack i := not_usesStack_of_registerInstr (.inr (.inr ⟨7, x, hi⟩))
  exact (ran_of_exec h).sp_eq_of_not_usesStack hstack

end Sys2Proof.Machine
end

section
/-! PROOFS. Memory (20_memory.md): reads and writes, who stores and where (R52), and code that a store overwrites
(R64, R66). -/

namespace Sys2Proof.Machine

variable {s t : State} {i : Instr}

/-! ### Reads and writes -/

/-- Settles O48: `Memory.read_write` and `Memory.wf_write` at the written address. -/
theorem memoryReadsTheLastWrite : Obligations.MemoryReadsTheLastWrite := by
  refine fun m addr v hm => ⟨fun k => ?_, fun ha => Memory.wf_write hm (Nat.lt_succ_of_le ha) v⟩
  rw [Memory.read_write hm]
  exact if_congr eq_comm rfl rfl

/-- A canonical memory lists no address above 255 (R50). -/
theorem Memory.read_of_gt {m : Memory} (hm : m.wf) {addr : Nat} (h : 255 < addr) : m.read addr = unlistedByte := by
  refine Memory.read_of_not_listed fun c hc => ?_
  have hlt : c.1 < 256 := (hm.2 c hc).1
  omega

/-- Settles O49: above 255 both memories read as the unlisted byte, so `Memory.ext_read` applies. -/
theorem canonicalMemoryIsDeterminedByItsBytes : Obligations.CanonicalMemoryIsDeterminedByItsBytes := by
  refine fun m n hm hn h => Memory.ext_read hm hn fun addr => ?_
  rcases Nat.lt_or_ge 255 addr with ha | ha
  · rw [Memory.read_of_gt hm ha, Memory.read_of_gt hn ha]
  · exact h addr ha

/-! ### Who stores, and where -/

/-- No instruction changes a byte other than the one at SP less one (R52). -/
theorem Ran.memSameExcept_pushAddress (h : Ran i s t) (hm : s.mem.wf) :
    MemSameExcept [(decSp s.sp).toNat] s t := by
  obtain hmem | ⟨_, v, _, hmem⟩ := h.mem_eq_or_pushed
  · exact .of_mem_eq hmem _
  · intro k hk
    rw [State.byteAt, hmem]
    exact MemSameExcept.setByte hm _ v k hk

theorem Ran.mem_eq_of_not_store (h : Ran i s t) (hpush : ∀ a, i ≠ .push a) (hcall : ∀ a, i ≠ .call a) :
    t.mem = s.mem := by
  obtain hmem | ⟨a, _, hi | hi, _⟩ := h.mem_eq_or_pushed
  · exact hmem
  · exact absurd hi (hpush a)
  · exact absurd hi (hcall a)

/-- What an instruction that does not emit leaves alone. -/
theorem Ran.frame_of_ne_prn (h : Ran i s t) (hm : s.mem.wf) (hprn : ∀ a, i ≠ .prn a) :
    RegsSameExcept i.written s t ∧ t.out = s.out ∧ FixedPartsSame s t ∧ MemSameExcept [(decSp s.sp).toNat] s t :=
  ⟨h.regsSameExcept, h.out_eq_of_ne_prn hprn, h.fixedPartsSame, h.memSameExcept_pushAddress hm⟩

/-- Settles O25: PUSH and CALL name no destination register and emit nothing. -/
theorem stackStoreFrame : Obligations.StackStoreFrame := by
  rintro s t a hm (h | h)
  · exact (ran_of_exec h).frame_of_ne_prn hm nofun
  · exact (ran_of_exec h).frame_of_ne_prn hm nofun

/-- What an instruction that neither emits nor stores leaves alone; memory need not be canonical here. -/
theorem Ran.frame_of_not_store (h : Ran i s t) (hprn : ∀ a, i ≠ .prn a) (hpush : ∀ a, i ≠ .push a)
    (hcall : ∀ a, i ≠ .call a) :
    RegsSameExcept i.written s t ∧ MemSameExcept [] s t ∧ t.out = s.out ∧ FixedPartsSame s t :=
  ⟨h.regsSameExcept, .of_mem_eq (h.mem_eq_of_not_store hpush hcall) _, h.out_eq_of_ne_prn hprn, h.fixedPartsSame⟩

/-- Settles O26: POP's one destination is its operand, RET has none, and neither emits or stores. -/
theorem stackLoadFrame : Obligations.StackLoadFrame :=
  ⟨fun _ _ _ h => (ran_of_exec h).frame_of_not_store nofun nofun nofun,
   fun _ _ h => (ran_of_exec h).frame_of_not_store nofun nofun nofun⟩

/-- An instruction that changes a byte is a PUSH or CALL, and the byte is the one at SP less one (R52). -/
theorem Ran.byteAt_changed {addr : Nat} (h : Ran i s t) (hm : s.mem.wf) (hne : t.byteAt addr ≠ s.byteAt addr) :
    addr = (decSp s.sp).toNat ∧ ∃ a, i = .push a ∨ i = .call a := by
  refine ⟨by_contra fun hk => hne ?_, ?_⟩
  · exact h.memSameExcept_pushAddress hm addr (by simpa using hk)
  · obtain hmem | ⟨a, _, hi, _⟩ := h.mem_eq_or_pushed
    · exact absurd (congrArg (Memory.read · addr) hmem) hne
    · exact ⟨a, hi⟩

/-- Settles O30: of the ways a step can go only a decoded instruction stores, and `Ran.byteAt_changed` says
which and where. -/
theorem memoryChangesOnlyAtThePushAddress : Obligations.MemoryChangesOnlyAtThePushAddress := by
  intro s t addr hm h hne
  cases stepped_of_step h with
  | terminal _ => exact absurd rfl hne
  | fetchFault _ _ _ _ => exact absurd rfl hne
  | illegal _ _ _ => exact absurd rfl hne
  | ran hr _ hi hran =>
    obtain ⟨haddr, a, rfl | rfl⟩ := hran.byteAt_changed hm hne
    · exact ⟨hr, haddr, a, .inl hi⟩
    · exact ⟨hr, haddr, a, .inr hi⟩

/-! ### Code that a store overwrites -/

/-- With the stack check off no push is stopped (R170). -/
theorem pushBlocked_of_unchecked (h : s.cfg.stackCheck = false) : s.pushBlocked = false :=
  pushBlocked_eq_false.mpr (by simp [h])

/-- A cycle that runs a PUSH which nothing stops (R96, R160). -/
theorem step_of_push {a : Byte} (hr : s.run = .running) (hi : s.windowInstr = some (.push a))
    (hc : s.pushBlocked = false) (h : a.toNat < 8) :
    step s = .next ((s.fetched.spDown.setByte (decSp s.sp).toNat (s.reg ⟨a.toNat, h⟩)).setPc (s.pc.toNat + 2)) :=
  (step_of_instr hr hi).trans (execPush_ok (s := s.fetched) hc h)

/-- A cycle that runs a CALL which nothing stops (R96, R180). -/
theorem step_of_call {a : Byte} (hr : s.run = .running) (hi : s.windowInstr = some (.call a))
    (hc : s.pushBlocked = false) (h : a.toNat < 8) :
    step s = .next ((s.fetched.spDown.setByte (decSp s.sp).toNat (returnAddress s.pc)).setPc
      (s.reg ⟨a.toNat, h⟩).toNat) :=
  (step_of_instr hr hi).trans (execCall_ok (s := s.fetched) hc h)

/-- A cycle whose window lies in memory ends with the byte at its PC in the instruction latch (R34, R96). -/
theorem Stepped.ir_eq (h : Stepped s t) (hr : s.run = .running) (hpc : s.pc.toNat ≤ 253) :
    t.ir = s.byteAt s.pc.toNat := by
  cases h with
  | terminal hr' => exact absurd hr hr'
  | fetchFault _ _ _ hpc' => omega
  | illegal _ _ _ => rfl
  | ran _ _ _ hran =>
    obtain ⟨hir, -⟩ := hran.fixedPartsSame
    exact hir

/-- Settles O42: the next cycle latches the byte at PC + 2, which is the byte the PUSH stored. -/
theorem pushedByteIsFetchedNext : Obligations.PushedByteIsFetchedNext := by
  intro s t u a ha hm hr hpc hi hoff haddr ht hu
  rw [step_of_push hr hi (pushBlocked_of_unchecked hoff) ha] at ht
  cases ht
  have hpc' := setPc_toNat (n := s.pc.toNat + 2) (by omega)
    (s.fetched.spDown.setByte (decSp s.sp).toNat (s.reg ⟨a.toNat, ha⟩))
  refine ⟨hpc', ?_⟩
  rw [(stepped_of_step hu).ir_eq hr (by omega), hpc', ← haddr, ← decSp_toNat]
  exact push_byteAt_self (s := s.fetched) hm _ _

/-- Settles O43: the operand is latched before the CALL stores its return address over it. -/
theorem latchedOperandSurvivesTheStore : Obligations.LatchedOperandSurvivesTheStore := by
  intro s a ha hm hr hi hoff haddr
  refine ⟨_, step_of_call hr hi (pushBlocked_of_unchecked hoff) ha, ?_, setPc_byte_toNat _ _⟩
  rw [← haddr, ← decSp_toNat, State.setPc_byteAt, push_byteAt_self (s := s.fetched) hm]
  exact returnAddress_toNat (pc_le_of_windowInstr hi)

end Sys2Proof.Machine
end

section
/-! PROOFS. Decoding and encoding (30_encoding.md rules R81 to R86): an instruction is its opcode byte and its operand
bytes, and each is read back from the other. -/

namespace Sys2Proof

variable {i : Instr} {a b : Byte}

/-- A format takes the operand bytes it has from the front of the window's two and ignores the others (R81, R83). -/
theorem instrOf_of_operands_prefix (h : i.operands <+: [a, b]) : instrOf i.mnemonic a b = i := by
  cases i <;> simp_all [Instr.operands, Instr.mnemonic, instrOf]

/-- The bytes of a format's instruction are the opcode byte and as much of the window as the format uses (R81). -/
theorem encode_instrOf (o : OpcodeMap) (m : Mnemonic) (a b : Byte) :
    encode o (instrOf m a b) = [o.byte m, a, b].take (instrOf m a b).length := by
  cases m <;> rfl

theorem Instr.length_operands_le (i : Instr) : i.operands.length ≤ 2 := by
  cases i <;> simp [Instr.operands]

/-- Settles O7: the bytes after the opcode byte begin with a window's two bytes, of which the operands are the
front. -/
theorem encodedInstructionDecodes : Obligations.EncodedInstructionDecodes := by
  intro o i rest ho hlen
  have hops : 2 ≤ (i.operands ++ rest).length := by
    rw [← i.length_operands] at hlen
    rw [List.length_append]
    omega
  obtain ⟨a, b, more, hwin⟩ : ∃ a b more, i.operands ++ rest = a :: b :: more := by
    match i.operands ++ rest, hops with
    | a :: b :: more, _ => exact ⟨a, b, more, rfl⟩
  have hpre : i.operands <+: [a, b] :=
    List.prefix_of_prefix_length_le ⟨rest, hwin⟩ ⟨more, rfl⟩ i.length_operands_le
  rw [encode, List.cons_append, hwin, decode_cons, decodeWindow_byte ho, instrOf_of_operands_prefix hpre]

/-- Settles O8: `encode_instrOf` gives the first bytes, and a window that shares them shares the operands. -/
theorem decodedWindowReencodes : Obligations.DecodedWindowReencodes := by
  intro o ir a b i h
  obtain ⟨m, hm, rfl⟩ := decodeWindow_eq_some.mp h
  have hbytes : encode o (instrOf m a b) = [ir, a, b].take (instrOf m a b).length := by
    rw [encode_instrOf, OpcodeMap.byte_of_lookup hm]
  refine ⟨hbytes, fun a' b' hsame => decodeWindow_eq_some.mpr ⟨m, hm, ?_⟩⟩
  have hpre : encode o (instrOf m a b) <+: [ir, a', b'] := hbytes.trans hsame.symm ▸ List.take_prefix _ _
  rw [encode, List.cons_prefix_cons] at hpre
  simpa using instrOf_of_operands_prefix hpre.2

/-- Settles O9: closed words under the default opcode bytes, by evaluation. -/
theorem specWordsDecode : Obligations.SpecWordsDecode := by
  unfold Obligations.SpecWordsDecode
  decide

end Sys2Proof
end

section
/-! PROOFS. The cycle (30_encoding.md rules R88 and R95 to R99): what a step does from each run state and window, as an
equation, and how a cycle can end. -/

namespace Sys2Proof

/-- The bytes under which a handler is found (R84). -/
theorem OpcodeMap.isSome_lookup {o : OpcodeMap} {ir : Byte} : (o.lookup ir).isSome ↔ ∃ m, o.byte m = ir := by
  rw [Option.isSome_iff_ne_none, ne_eq, OpcodeMap.lookup_eq_none]
  push Not
  rfl

/-- A legal map's opcode bytes, as numbers, are nine different ones (R85). -/
theorem OpcodeMap.nodup_bytes {o : OpcodeMap} (h : o.wf) :
    (Mnemonic.all.map fun m => (o.byte m).toNat).Nodup := by
  have hnodup : Mnemonic.all.Nodup := by decide
  exact hnodup.map fun _ _ e => OpcodeMap.byte_injective h (BitVec.eq_of_toNat_eq e)

/-- The byte values with a handler are a legal map's nine opcode bytes (R85). -/
theorem OpcodeMap.legal_perm {o : OpcodeMap} (h : o.wf) :
    ((List.range 256).filter fun n => (o.lookup (BitVec.ofNat 8 n)).isSome).Perm
      (Mnemonic.all.map fun m => (o.byte m).toNat) := by
  rw [List.perm_ext_iff_of_nodup (List.nodup_range.filter _) (OpcodeMap.nodup_bytes h)]
  intro n
  simp only [List.mem_filter, List.mem_range, OpcodeMap.isSome_lookup, List.mem_map]
  constructor
  · rintro ⟨hn, m, hm⟩
    exact ⟨m, m.mem_all, by rw [hm, BitVec.toNat_ofNat, Nat.mod_eq_of_lt hn]⟩
  · rintro ⟨m, -, rfl⟩
    exact ⟨(o.byte m).isLt, m, by simp⟩

/-- All but nine byte values are illegal (R88). -/
theorem OpcodeMap.length_illegal {o : OpcodeMap} (h : o.wf) :
    ((List.range 256).filter fun n => (o.lookup (BitVec.ofNat 8 n)).isNone).length = 247 := by
  have hsplit := List.length_eq_length_filter_add (l := List.range 256)
    fun n => (o.lookup (BitVec.ofNat 8 n)).isSome
  rw [(OpcodeMap.legal_perm h).length_eq, List.length_range, List.length_map] at hsplit
  simp only [Option.not_isSome] at hsplit
  have hnine : Mnemonic.all.length = 9 := rfl
  omega

end Sys2Proof

namespace Sys2Proof.Machine

variable {s t : State} {i : Instr}

theorem windowInstr_of_le (h : s.pc.toNat ≤ 253) :
    s.windowInstr = decodeWindow s.cfg.opcodes (s.byteAt s.pc.toNat) (s.byteAt (s.pc.toNat + 1))
      (s.byteAt (s.pc.toNat + 2)) := if_pos h

theorem windowInstr_of_gt (h : 253 < s.pc.toNat) : s.windowInstr = none := if_neg (by omega)

/-! ### What a step is -/

/-- Settles O10: `step_of_instr`, whose fetched state is the one written out. -/
theorem stepRunsTheDecodedInstruction : Obligations.StepRunsTheDecodedInstruction :=
  fun _ _ hr hpc hi => step_of_instr hr ((windowInstr_of_le hpc).trans hi)

/-- A cycle whose first byte is none of the nine opcode bytes (R88). -/
theorem step_of_unmapped (hr : s.run = .running) (hpc : s.pc.toNat ≤ 253)
    (hb : ∀ m, s.cfg.opcodes.byte m ≠ s.byteAt s.pc.toNat) :
    step s = .next (s.fetched.raised (.illegalInstruction (s.byteAt s.pc.toNat) s.pc)) :=
  step_of_illegal hr hpc ((windowInstr_of_le hpc).trans (decodeWindow_eq_none.mpr hb))

/-- A cycle at 254 to 256: the first address of the window that is outside memory is 256 (R97). -/
theorem step_of_pastTheTop (hr : s.run = .running) (hlo : 254 ≤ s.pc.toNat) (hhi : s.pc.toNat ≤ 256) :
    step s = .next (s.partFetched.raised (.outOfBounds .memory 256)) := by
  rw [step_of_gt hr hlo, max_eq_right hhi]

/-- A fault raised before any instruction runs leaves everything but the run state, the record, the latches and
`started` (R97, R222). -/
theorem latched_raised_frame (s : State) (x y z : Byte) (info : FaultInfo) :
    FaultedWith info s ((s.begin.latch x y z).raised info) ∧
      RegsSameExcept [] s ((s.begin.latch x y z).raised info) ∧
      MemSameExcept [] s ((s.begin.latch x y z).raised info) ∧
      ((s.begin.latch x y z).raised info).sp = s.sp ∧ ((s.begin.latch x y z).raised info).out = s.out :=
  ⟨⟨rfl, rfl, rfl⟩, .of_regs_eq rfl _, .of_mem_eq rfl _, rfl, rfl⟩

/-- Settles O11: `step_of_pastTheTop`, in a partly latched state. -/
theorem fetchPastTheTopFaults : Obligations.FetchPastTheTopFaults :=
  fun s hr hlo hhi => ⟨_, step_of_pastTheTop hr hlo hhi, latched_raised_frame s _ _ _ _⟩

/-- Settles O12: `step_of_unmapped`, and the count of `OpcodeMap.length_illegal`. -/
theorem unmappedOpcodeFaults : Obligations.UnmappedOpcodeFaults :=
  ⟨fun s hr hpc hb => ⟨_, step_of_unmapped hr hpc hb, latched_raised_frame s _ _ _ _⟩,
   fun _ => OpcodeMap.length_illegal⟩

/-- In a terminal state the host's repeated step answers that state (R95). -/
theorem core_run_terminal (h : s.run ≠ .running) (n : Nat) : Sys2Proof.core.run n s = .next s := by
  induction n with
  | zero => rfl
  | succ n ih => rw [core_run_next (step_terminal h), ih]

/-- Settles O13: a step of a terminal state is that state, and the three cases of a cycle are the equations
above. -/
theorem terminalStatesNeverChange : Obligations.TerminalStatesNeverChange := by
  refine ⟨fun s n hend => core_run_terminal ?_ n, stepRunsTheDecodedInstruction,
    fun s hr hpc hb => step_of_unmapped hr hpc hb,
    fun s hr hlo hhi => ⟨_, _, _, step_of_pastTheTop hr hlo hhi⟩⟩
  obtain h | h := hend <;> simp [h]

/-! ### How a cycle ends -/

/-- Only HLT halts (R99, R200). -/
theorem Ran.run_ne_halted (h : Ran i s t) (hi : i ≠ .hlt) (hs : s.run = .running) : t.run ≠ .halted := by
  cases h
  case hlt => exact absurd rfl hi
  all_goals simp [hs]

/-- An instruction other than HLT that is run by a running machine leaves it running or raises a fault (R99). -/
theorem Ran.running_or_faulted (h : Ran i s t) (hi : i ≠ .hlt) (hr : s.run = .running) :
    (t.run = .running ∧ t.fault = s.fault) ∨ ∃ info, FaultedWith info s t := by
  obtain ⟨info, hf, _⟩ | ⟨hfault, hrun | hrun⟩ := h.raised_or_kept
  · exact .inr ⟨info, hf⟩
  · exact .inl ⟨hrun.trans hr, hfault⟩
  · exact absurd hrun (h.run_ne_halted hi hr)

/-- Settles O14: a fetch that fails or finds no opcode raises, HLT halts, and `Ran.running_or_faulted` says how any
other instruction ends. -/
theorem cycleEndsInOneOfThreeWays : Obligations.CycleEndsInOneOfThreeWays := by
  intro s hr hnone
  obtain ⟨t, hstep, hs⟩ := step_stepped s
  refine ⟨t, hstep, ?_⟩
  cases hs with
  | terminal hr' => exact absurd hr hr'
  | fetchFault _ _ _ hpc => exact .inr (.inr ⟨rfl, ⟨_, rfl⟩, by simp [windowInstr_of_gt hpc]⟩)
  | illegal _ _ hi => exact .inr (.inr ⟨rfl, ⟨_, rfl⟩, by simp [hi]⟩)
  | @ran _ i _ _ hi hran =>
    by_cases hhlt : i = .hlt
    · subst hhlt
      cases hran
      exact .inr (.inl ⟨rfl, hnone, hi⟩)
    · obtain ⟨hrun, hfault⟩ | ⟨_, hrun, hfault, _⟩ := hran.running_or_faulted hhlt hr
      · exact .inl ⟨hrun, hfault.trans hnone, i, hi, hhlt⟩
      · exact .inr (.inr ⟨hrun, ⟨_, hfault⟩, by simpa [hi] using hhlt⟩)

/-! ### Well-formed instructions -/

/-- With the stack check off no pop is stopped (R170). -/
theorem popBlocked_of_unchecked (h : s.cfg.stackCheck = false) : s.popBlocked = false :=
  popBlocked_eq_false.mpr (by simp [h])

/-- A well-formed instruction has no way to fault but the stack check's (R82, R170). -/
theorem Ran.kept_of_wellFormed (h : Ran i s t) (hw : i.wellFormed = true) (hc : s.cfg.stackCheck = false) :
    t.fault = s.fault ∧ (t.run = s.run ∨ t.run = .halted) := by
  cases h
  case pushBlocked h | callBlocked h => simp [pushBlocked_of_unchecked hc] at h
  case popBlocked h | retBlocked h => simp [popBlocked_of_unchecked hc] at h
  case ldiBad h | prnBad h | mulBadA h | mulBadB _ h | addBadA h | addBadB _ h | pushBad _ h | popBad _ h
      | callBad _ h =>
    simp only [Instr.wellFormed, Bool.and_eq_true, decide_eq_true_eq] at hw
    omega
  case hlt => exact ⟨rfl, .inr rfl⟩
  all_goals exact ⟨rfl, .inl rfl⟩

/-- Settles O38: by `Ran.kept_of_wellFormed` the run state stays RUNNING or becomes HALTED. -/
theorem wellFormedInstructionNeverFaults : Obligations.WellFormedInstructionNeverFaults := by
  intro s i hw hc hr
  obtain ⟨t, hexec, hran⟩ := exec_ran i s
  obtain ⟨hfault, hrun⟩ := hran.kept_of_wellFormed hw hc
  refine ⟨t, hexec, ?_, hfault⟩
  obtain h | h := hrun <;> simp [h, hr]

end Sys2Proof.Machine
end

section
/-! PROOFS. The assembler (30_encoding.md rule R90): the instruction a statement stands for, and its bytes. -/

namespace Sys2Proof.Machine.Asm

variable {ls : Labels} {st : Stmt} {i : Instr}

/-- The rows of R90's table that are instructions: what a statement stands for, given where the labels are. `DB` stands
for none. -/
inductive StandsFor (ls : Labels) : Stmt → Instr → Prop
  | ldi {a : RegIx} {v : Value} {w : Byte} (h : v.byte ls = some w) : StandsFor ls (.ldi a v) (.ldi (regByte a) w)
  | prn {a : RegIx} : StandsFor ls (.prn a) (.prn (regByte a))
  | mul {a b : RegIx} : StandsFor ls (.mul a b) (.mul (regByte a) (regByte b))
  | add {a b : RegIx} : StandsFor ls (.add a b) (.add (regByte a) (regByte b))
  | push {a : RegIx} : StandsFor ls (.push a) (.push (regByte a))
  | pop {a : RegIx} : StandsFor ls (.pop a) (.pop (regByte a))
  | call {a : RegIx} : StandsFor ls (.call a) (.call (regByte a))
  | ret : StandsFor ls .ret .ret
  | hlt : StandsFor ls .hlt .hlt

theorem StandsFor.bytes_eq (h : StandsFor ls st i) (o : OpcodeMap) : st.bytes o ls = some (encode o i) := by
  cases h with
  | ldi hw => simp [Stmt.bytes, hw]
  | _ => rfl

theorem StandsFor.length_eq (h : StandsFor ls st i) : st.length = i.length := by
  cases h <;> rfl

theorem namesRegister_regByte (r : RegIx) : namesRegister (regByte r) := by
  simp only [namesRegister, regByte, BitVec.toNat_ofNat]
  omega

theorem StandsFor.wellFormed (h : StandsFor ls st i) : i.wellFormed = true := by
  cases h <;> simp [Instr.wellFormed, namesRegister_regByte]

/-- A label's byte is the address of the first definition of its name, where that is a byte (log entry 11). -/
theorem Value.byte_label (more : Labels) {name : Chars} (addr : Nat) (h : ∀ d ∈ ls, d.1 ≠ name) :
    (Value.label name).byte (ls ++ (name, addr) :: more) =
      if addr < 256 then some (BitVec.ofNat 8 addr) else none := by
  have hnone : ls.find? (fun d => d.1 == name) = none := by simpa using h
  simp [Value.byte, List.find?_append, hnone]

/-- Settles O54: a statement of the table stands for its instruction, whose bytes decode back by
`encodedInstructionDecodes`; the other clauses are the assembler's equations for `DB`, LDI and values. -/
theorem assembledStatementDecodes : Obligations.AssembledStatementDecodes := by
  refine ⟨fun o ls st i ho hi => ?_, fun _ _ v w hw => ⟨by simp [Stmt.bytes, hw], rfl⟩,
    fun _ _ _ v hv => by simp [Stmt.bytes, hv], fun _ _ => rfl, fun _ more _ addr h => Value.byte_label more addr h⟩
  have hst : StandsFor ls st i := by
    cases st with
    | ldi a v =>
      obtain ⟨w, hw, rfl⟩ := hi
      exact .ldi hw
    | db v => exact hi.elim
    | _ =>
      subst hi
      constructor
  have hlen := i.length_operands
  exact ⟨hst.bytes_eq o, by rw [hst.length_eq, ← hlen, Nat.add_comm], hst.wellFormed,
    fun x y => encodedInstructionDecodes o i [x, y] ho (by simp only [List.length_cons, List.length_nil]; omega)⟩

end Sys2Proof.Machine.Asm
end

section
/-! PROOFS. Load-immediate and print (40_register_io.md rules R120 and R125): what LDI and PRN do on a register number
and on a byte that names none. -/

namespace Sys2Proof.Machine

/-- Raising a fault changes the run state and the fault record only, and the record names the PC (R222). -/
theorem raised_frame (info : FaultInfo) (s : State) :
    FaultedWith info s (s.raised info) ∧ RegsSameExcept [] s (s.raised info) ∧ (s.raised info).sp = s.sp ∧
      MemSameExcept [] s (s.raised info) ∧ (s.raised info).out = s.out ∧ FixedPartsSame s (s.raised info) :=
  ⟨⟨rfl, rfl, rfl⟩, .of_regs_eq rfl _, rfl, .of_mem_eq rfl _, rfl, rfl, rfl, rfl, rfl, rfl⟩

/-- Settles O15: on a register number `execLdi_ok`, a register write and then a PC write that fits the PC; on any
other byte a fault. -/
theorem ldiWritesTheImmediate : Obligations.LdiWritesTheImmediate := by
  refine ⟨fun o a v => rfl, fun s a v h hpc => ?_, fun s a v h => ?_⟩
  · have hran : Ran (.ldi a v) s ((s.setReg ⟨a.toNat, h⟩ v).setPc (s.pc.toNat + 3)) := .ldi h
    exact ⟨_, execLdi_ok h v s, State.setReg_reg_self s ⟨a.toNat, h⟩ v, hran.regsSameExcept,
      setPc_toNat (by omega) _, rfl, .of_mem_eq rfl _, ⟨rfl, rfl, rfl⟩, hran.fixedPartsSame⟩
  · exact ⟨_, execLdi_badReg h v s, raised_frame _ s⟩

/-- Settles O16: on a register number `execPrn_ok`, an append to the output and then a PC write that fits the PC; on
any other byte a fault. -/
theorem prnEmitsTheRegister : Obligations.PrnEmitsTheRegister := by
  refine ⟨fun o a => rfl, fun s a h hpc => ?_, fun s a h => ?_⟩
  · have hran : Ran (.prn a) s ((s.emit (s.reg ⟨a.toNat, h⟩)).setPc (s.pc.toNat + 2)) := .prn h
    exact ⟨_, execPrn_ok h s, rfl, hran.regsSameExcept, setPc_toNat (by omega) _, rfl, .of_mem_eq rfl _, rfl, rfl,
      hran.fixedPartsSame⟩
  · exact ⟨_, execPrn_badReg h s, raised_frame _ s⟩

end Sys2Proof.Machine
end

section
/-! PROOFS. Arithmetic (41_arithmetic.md rules R140, R145 and R151): what MUL and ADD do, said once for the shape they
share, and their results read as two's complement. -/

namespace Sys2Proof.Machine

/-! ### The shape MUL and ADD share -/

/-- A register write that ends in an advance by 3 changes that register and the PC only. -/
theorem setReg_setPc_frame {s : State} (hpc : s.pc.toNat ≤ 253) (r : RegIx) (v : Byte) :
    RegsSameExcept [r.val] s ((s.setReg r v).setPc (s.pc.toNat + 3)) ∧
      ((s.setReg r v).setPc (s.pc.toNat + 3)).pc.toNat = s.pc.toNat + 3 ∧
      ((s.setReg r v).setPc (s.pc.toNat + 3)).sp = s.sp ∧
      MemSameExcept [] s ((s.setReg r v).setPc (s.pc.toNat + 3)) ∧
      ReportSame s ((s.setReg r v).setPc (s.pc.toNat + 3)) ∧
      FixedPartsSame s ((s.setReg r v).setPc (s.pc.toNat + 3)) :=
  ⟨RegsSameExcept.setReg s r v, setPc_toNat (by omega) _, rfl, .of_mem_eq rfl _, ⟨rfl, rfl, rfl⟩,
    rfl, rfl, rfl, rfl, rfl⟩

/-- On register numbers an arithmetic instruction leaves its result in the first register. -/
theorem reg_of_arith {f : Byte → Byte → Byte} {a b : Byte} {s t : State} (ha : a.toNat < 8) (hb : b.toNat < 8)
    (h : arith f a b s = .next t) :
    t.reg ⟨a.toNat, ha⟩ = f (s.reg ⟨a.toNat, ha⟩) (s.reg ⟨b.toNat, hb⟩) := by
  rw [arith_ok ha hb] at h
  cases h
  rw [State.setPc_reg, State.setReg_reg_self]

/-- Of two operands that do not both name registers, the first bad one is reported (R140, R145). -/
theorem arith_badReg {a b : Byte} (h : 8 ≤ a.toNat ∨ 8 ≤ b.toNat) (f : Byte → Byte → Byte) (s : State) :
    arith f a b s =
      .next (s.raised (.outOfBounds .register (if 8 ≤ a.toNat then a.toNat else b.toNat))) := by
  by_cases ha : 8 ≤ a.toNat
  · rw [if_pos ha, arith_badA ha]
  · rw [if_neg ha, arith_badB (by omega) (h.resolve_left ha)]

/-- Settles O17: on register numbers `arith_ok`, whose result `mulMod_toNat` gives; otherwise the fault of
`arith_badReg`. -/
theorem mulWritesTheProductMod256 : Obligations.MulWritesTheProductMod256 := by
  refine ⟨fun o a b => rfl, fun s a b ha hb hpc => ?_, fun s a b h => ?_⟩
  · have h := arith_ok ha hb mulMod s
    exact ⟨_, h, by rw [reg_of_arith ha hb h, mulMod_toNat], setReg_setPc_frame hpc ⟨a.toNat, ha⟩ _⟩
  · exact ⟨_, arith_badReg h mulMod s, raised_frame _ s⟩

/-- Settles O18: on register numbers `arith_ok`, whose result `addMod_toNat` gives; otherwise the fault of
`arith_badReg`. -/
theorem addWritesTheSumMod256 : Obligations.AddWritesTheSumMod256 := by
  refine ⟨fun o a b => rfl, fun s a b ha hb hpc => ?_, fun s a b h => ?_⟩
  · have h := arith_ok ha hb addMod s
    exact ⟨_, h, by rw [reg_of_arith ha hb h, addMod_toNat], setReg_setPc_frame hpc ⟨a.toNat, ha⟩ _⟩
  · exact ⟨_, arith_badReg h addMod s, raised_frame _ s⟩

/-! ### Two's complement -/

theorem mulMod_eq_mul (x y : Byte) : mulMod x y = x * y :=
  BitVec.eq_of_toNat_eq ((mulMod_toNat x y).trans (BitVec.toNat_mul x y).symm)

theorem addMod_eq_add (x y : Byte) : addMod x y = x + y :=
  BitVec.eq_of_toNat_eq ((addMod_toNat x y).trans (BitVec.toNat_add x y).symm)

/-- The signed product is the product of the signed readings wrapped to 8 bits, a multiple of 256 away (R151). -/
theorem mulMod_toInt_sub_emod (x y : Byte) : ((mulMod x y).toInt - x.toInt * y.toInt) % 256 = 0 := by
  rw [mulMod_eq_mul, BitVec.toInt_mul]
  exact Int.emod_eq_emod_iff_emod_sub_eq_zero.mp Int.bmod_emod

theorem addMod_toInt_sub_emod (x y : Byte) : ((addMod x y).toInt - (x.toInt + y.toInt)) % 256 = 0 := by
  rw [addMod_eq_add, BitVec.toInt_add]
  exact Int.emod_eq_emod_iff_emod_sub_eq_zero.mp Int.bmod_emod

/-- Settles O47: the results are `mulMod` and `addMod` of the registers, by `reg_of_arith`. -/
theorem arithmeticAgreesWithTwosComplement : Obligations.ArithmeticAgreesWithTwosComplement := by
  intro s t u a b ha hb hmul hadd
  rw [reg_of_arith (f := mulMod) ha hb hmul, reg_of_arith (f := addMod) ha hb hadd]
  exact ⟨mulMod_toInt_sub_emod _ _, addMod_toInt_sub_emod _ _⟩

end Sys2Proof.Machine
end

section
/-! PROOFS. The stack (42_stack.md rules R160, R165, R170, R172 and R173): what PUSH and POP do on each path, the pair
of them, and the stack check's bounds on SP. -/

namespace Sys2Proof.Machine

variable {s t u : State}

/-! ### PUSH and POP -/

/-- A fault raised after SP was set to `x` leaves everything but SP, the run state and the record. With `x` the SP it
had it is a fault that changes nothing else, with the lowered SP the fault of PUSH's register operand (R223). -/
theorem setSp_raised_frame (info : FaultInfo) (x : Byte) (s : State) :
    FaultedWith info s ((s.setSp x).raised info) ∧ ((s.setSp x).raised info).sp = x ∧
      RegsSameExcept [] s ((s.setSp x).raised info) ∧ MemSameExcept [] s ((s.setSp x).raised info) ∧
      ((s.setSp x).raised info).out = s.out ∧ FixedPartsSame s ((s.setSp x).raised info) := by
  obtain ⟨hfault, hregs, hsp, hrest⟩ := raised_frame info (s.setSp x)
  exact ⟨hfault, hsp, hregs, hrest⟩

/-- Settles O19: past the check `execPush_ok`, whose one store is at the lowered SP; the two faults are
`execPush_blocked`, with SP as it was, and `execPush_badReg`, with SP lowered. -/
theorem pushStoresTheRegister : Obligations.PushStoresTheRegister := by
  refine ⟨fun o a => rfl, fun s a h hm hpc hpass => ?_, fun s a hc hle => ?_, fun s a h hpass => ?_⟩
  · have hc : s.pushBlocked = false := pushBlocked_eq_false.mpr hpass
    have hran := Ran.push hc h
    exact ⟨_, execPush_ok hc h, decSp_toNat s.sp, push_byteAt_self hm _ _, hran.memSameExcept_pushAddress hm,
      setPc_toNat (by omega) _, hran.regsSameExcept, ⟨rfl, rfl, rfl⟩, hran.fixedPartsSame⟩
  · exact ⟨_, execPush_blocked (pushBlocked_eq_true.mpr ⟨hc, hle⟩) a, setSp_raised_frame _ s.sp s⟩
  · obtain ⟨hfault, hsp, hframe⟩ := setSp_raised_frame (.outOfBounds .register a.toNat) (decSp s.sp) s
    exact ⟨_, execPush_badReg (pushBlocked_eq_false.mpr hpass) h, hfault, hsp ▸ decSp_toNat s.sp, hframe⟩

/-- Settles O20: past the check `execPop_ok`, a register write and then a raised SP; both faults, `execPop_blocked` and
`execPop_badReg`, leave SP as it was. -/
theorem popLoadsTheRegister : Obligations.PopLoadsTheRegister := by
  refine ⟨fun o a => rfl, fun s a h hpc hpass => ?_, fun s a hc hle => ?_, fun s a h hpass => ?_⟩
  · have hc : s.popBlocked = false := popBlocked_eq_false.mpr hpass
    have hran := Ran.pop hc h
    exact ⟨_, execPop_ok hc h, State.setReg_reg_self s ⟨a.toNat, h⟩ _, hran.regsSameExcept, incSp_toNat s.sp,
      setPc_toNat (by omega) _, .of_mem_eq rfl _, ⟨rfl, rfl, rfl⟩, hran.fixedPartsSame⟩
  · exact ⟨_, execPop_blocked (popBlocked_eq_true.mpr ⟨hc, hle⟩) a, setSp_raised_frame _ s.sp s⟩
  · exact ⟨_, execPop_badReg (popBlocked_eq_false.mpr hpass) h, setSp_raised_frame _ s.sp s⟩

/-! ### A PUSH and then a POP -/

theorem RegsSameExcept.trans {l m : List Nat} (hst : RegsSameExcept l s t) (htu : RegsSameExcept m t u) :
    RegsSameExcept (l ++ m) s u := by
  intro j hj
  rw [List.mem_append, not_or] at hj
  exact (htu j hj.2).trans (hst j hj.1)

theorem MemSameExcept.trans {l m : List Nat} (hst : MemSameExcept l s t) (htu : MemSameExcept m t u) :
    MemSameExcept (l ++ m) s u := by
  intro addr h
  rw [List.mem_append, not_or] at h
  exact (htu addr h.2).trans (hst addr h.1)

theorem ReportSame.trans (hst : ReportSame s t) (htu : ReportSame t u) : ReportSame s u := by
  obtain ⟨hrun, hfault, hout⟩ := hst
  obtain ⟨hrun', hfault', hout'⟩ := htu
  exact ⟨hrun'.trans hrun, hfault'.trans hfault, hout'.trans hout⟩

/-- A register that may differ but holds what it held does not differ. -/
theorem RegsSameExcept.of_singleton {j : RegIx} (h : RegsSameExcept [j.val] s t) (hj : t.reg j = s.reg j) :
    RegsSameExcept [] s t := by
  intro k _
  by_cases hk : k = j
  · rw [hk, hj]
  · exact h k (by simpa using Fin.val_ne_of_ne hk)

/-- Settles O39: the first clauses of `pushStoresTheRegister` and `popLoadsTheRegister`, the POP reading the byte that
the PUSH stored. The lowered SP is below SP_INIT, so the stack check lets the POP through. -/
theorem pushThenPopCopies : Obligations.PushThenPopCopies := by
  intro s a b ha hb hm hpc hrange
  obtain ⟨-, hpush, -⟩ := pushStoresTheRegister
  obtain ⟨-, hpop, -⟩ := popLoadsTheRegister
  obtain ⟨t, ht, htsp, htbyte, htmem, htpc, htregs, htreport, htfixed⟩ :=
    hpush s a ha hm (by omega) fun hc => (hrange hc).1
  obtain ⟨-, -, -, -, hcfg⟩ := htfixed
  have hpass : t.cfg.stackCheck = true → t.sp.toNat < t.cfg.spInit.toNat := by
    rw [hcfg, htsp]
    intro hc
    obtain ⟨hlo, hhi⟩ := hrange hc
    omega
  obtain ⟨u, hu, hureg, huregs, husp, hupc, humem, hureport, -⟩ := hpop t b hb (by omega) hpass
  have hcopy : u.reg ⟨b.toNat, hb⟩ = s.reg ⟨a.toNat, ha⟩ := hureg.trans htbyte
  have hregs : RegsSameExcept [b.toNat] s u := htregs.trans huregs
  have hsp : u.sp = s.sp := by
    have := s.sp.isLt
    apply BitVec.eq_of_toNat_eq
    omega
  refine ⟨t, u, ht, hu, hcopy, hregs, hsp, ?_, ?_, by omega, htreport.trans hureport, ?_⟩
  · rw [← htsp, humem t.sp.toNat List.not_mem_nil, htbyte]
  · rw [← htsp]
    exact htmem.trans humem
  · rintro rfl
    exact hregs.of_singleton (j := ⟨a.toNat, ha⟩) hcopy

/-! ### The stack check -/

/-- With the stack check on, a move of SP does not wrap: a push that it lets through finds SP above 0, and a pop SP
below 255 (R170). -/
theorem SpMoved.le_add_one {w : Option Instr} (h : SpMoved w s t) (hc : s.cfg.stackCheck = true) :
    t.sp.toNat ≤ s.sp.toNat + 1 ∧ s.sp.toNat ≤ t.sp.toNat + 1 := by
  cases h with
  | kept h => rw [h]; omega
  | down _ hpass h =>
    have hlt := pushBlocked_eq_false.mp hpass hc
    rw [h, decSp_toNat_of_pos (by omega)]
    omega
  | up _ hpass h =>
    have hlt := popBlocked_eq_false.mp hpass hc
    have := byte_le s.cfg.spInit
    rw [h, incSp_toNat_of_lt (by omega)]
    omega

/-- Settles O36: the check is the first sub-step of the four stack instructions, the moves of SP that it lets through
are those of `SpMoved`, and `Ran.raised_or_kept` says that only it raises the two faults. -/
theorem stackCheckConfinesSp : Obligations.StackCheckConfinesSp := by
  refine ⟨?_, ?_, fun s t hs hc h => ?_, fun s t i r hc hnone h hrec => ?_, rfl, fun cfg h => BitVec.le_def.mp h.2⟩
  · rintro s _ hc hle ⟨a, rfl | rfl⟩
    · exact execPush_blocked (pushBlocked_eq_true.mpr ⟨hc, hle⟩) a
    · exact execCall_blocked (pushBlocked_eq_true.mpr ⟨hc, hle⟩) a
  · rintro s _ hc hle (rfl | ⟨a, rfl⟩)
    · exact execRet_blocked (popBlocked_eq_true.mpr ⟨hc, hle⟩)
    · exact execPop_blocked (popBlocked_eq_true.mpr ⟨hc, hle⟩) a
  · have hsp : SpMoved s.windowInstr s t := (stepped_of_step h).spMoved
    obtain ⟨hlo, hhi⟩ := hsp.stack_range hc (hs.stack_range hc)
    exact ⟨hlo, hhi, hsp.le_add_one hc⟩
  · obtain ⟨info, ⟨_, hfault, _⟩, _, hstack⟩ | ⟨hfault, _⟩ := (ran_of_exec h).raised_or_kept
    · cases hrec.symm.trans hfault
      exact hstack hc
    · simp [hfault, hnone] at hrec

end Sys2Proof.Machine
end

section
/-! PROOFS. Subroutines (43_subroutine.md rules R180, R185, R190 and R191): what CALL and RET do on each path, and a RET
that comes right after a push, whether a CALL or a PUSH made it. -/

namespace Sys2Proof.Machine

/-! ### CALL and RET -/

/-- The byte that a CALL pushes reads back as PC + 2 (R180). -/
theorem pushed_returnAddress_toNat {s : State} (hm : s.mem.wf) (hpc : s.pc.toNat ≤ 253) (k : Nat) :
    ((s.spDown.setByte k (returnAddress s.pc)).byteAt k).toNat = s.pc.toNat + 2 := by
  rw [push_byteAt_self hm, returnAddress_toNat hpc]

/-- Settles O21: past the check `execCall_ok`, which stores the return address at the lowered SP and then jumps; the two
faults are `execCall_blocked`, with SP as it was, and `execCall_badReg`, after the same push. -/
theorem callPushesTheReturnAddressAndJumps : Obligations.CallPushesTheReturnAddressAndJumps := by
  refine ⟨fun o a => rfl, fun s a h hm hpc hpass => ?_, fun s a hc hle => ?_, fun s a h hm hpc hpass => ?_⟩
  · have hc : s.pushBlocked = false := pushBlocked_eq_false.mpr hpass
    have hran := Ran.call hc h
    exact ⟨_, execCall_ok hc h, decSp_toNat s.sp, pushed_returnAddress_toNat hm hpc _,
      hran.memSameExcept_pushAddress hm, setPc_byte_toNat _ _, hran.regsSameExcept, ⟨rfl, rfl, rfl⟩, hran.fixedPartsSame⟩
  · exact ⟨_, execCall_blocked (pushBlocked_eq_true.mpr ⟨hc, hle⟩) a, setSp_raised_frame _ s.sp s⟩
  · have hc : s.pushBlocked = false := pushBlocked_eq_false.mpr hpass
    have hran := Ran.callBad hc h
    exact ⟨_, execCall_badReg hc h, ⟨rfl, rfl, rfl⟩, decSp_toNat s.sp, pushed_returnAddress_toNat hm hpc _,
      hran.memSameExcept_pushAddress hm, hran.regsSameExcept, rfl, hran.fixedPartsSame⟩

/-- Settles O22: past the check `execRet_ok`, a raised SP and a jump; the fault is `execRet_blocked`. -/
theorem retPopsThePc : Obligations.RetPopsThePc := by
  refine ⟨fun o => rfl, fun s hpass => ?_, fun s hc hle => ?_⟩
  · have hc : s.popBlocked = false := popBlocked_eq_false.mpr hpass
    have hran := Ran.ret hc
    exact ⟨_, execRet_ok hc, setPc_byte_toNat _ _, incSp_toNat s.sp, hran.regsSameExcept, .of_mem_eq rfl _,
      ⟨rfl, rfl, rfl⟩, hran.fixedPartsSame⟩
  · exact ⟨_, execRet_blocked (popBlocked_eq_true.mpr ⟨hc, hle⟩), setSp_raised_frame _ s.sp s⟩

/-! ### A push and then a RET -/

/-- A RET right after a push of `v`, wherever the pushing instruction left the PC, jumps to `v`; of the pair the byte
below the old SP remains. The lowered SP is below SP_INIT, so the stack check lets the RET through. -/
theorem ret_after_push {s : State} (hm : s.mem.wf)
    (hrange : s.cfg.stackCheck = true →
      s.cfg.stackLimit.toNat < s.sp.toNat ∧ s.sp.toNat ≤ s.cfg.spInit.toNat) (v : Byte) (n : Nat) :
    ∃ u, exec .ret ((s.spDown.setByte (decSp s.sp).toNat v).setPc n) = .next u ∧ u.pc.toNat = v.toNat ∧
      u.sp = s.sp ∧ RegsSameExcept [] s u ∧ u.byteAt ((s.sp.toNat + 255) % 256) = v ∧
      MemSameExcept [(s.sp.toNat + 255) % 256] s u ∧ ReportSame s u := by
  have hpass : s.cfg.stackCheck = true → (decSp s.sp).toNat < s.cfg.spInit.toNat := by
    intro hc
    obtain ⟨hlo, hhi⟩ := hrange hc
    rw [decSp_toNat_of_pos (by omega)]
    omega
  have hbyte := push_byteAt_self hm (decSp s.sp).toNat v
  have hmem := MemSameExcept.push hm (decSp s.sp).toNat v
  rw [← decSp_toNat]
  exact ⟨_, execRet_ok (popBlocked_eq_false.mpr hpass), (setPc_byte_toNat _ _).trans (congrArg BitVec.toNat hbyte),
    incSp_decSp s.sp, .of_regs_eq rfl _, hbyte, hmem, rfl, rfl, rfl⟩

/-- Settles O40: the pushed byte that `ret_after_push` jumps to is the return address. -/
theorem callThenRetResumes : Obligations.CallThenRetResumes := by
  intro s a ha hm hpc hrange
  have hc : s.pushBlocked = false := pushBlocked_eq_false.mpr fun h => (hrange h).1
  obtain ⟨u, hu, hupc, husp, huregs, -, hurest⟩ := ret_after_push hm hrange (returnAddress s.pc) _
  exact ⟨_, u, execCall_ok hc ha, hu, hupc.trans (returnAddress_toNat hpc), husp, huregs, hurest⟩

/-- Settles O41: the pushed byte that `ret_after_push` jumps to is the register's value. -/
theorem pushThenRetJumps : Obligations.PushThenRetJumps := by
  intro s a ha hm hrange
  have hc : s.pushBlocked = false := pushBlocked_eq_false.mpr fun h => (hrange h).1
  obtain ⟨u, hu⟩ := ret_after_push hm hrange (s.reg ⟨a.toNat, ha⟩) (s.pc.toNat + 2)
  exact ⟨_, u, execPush_ok hc ha, hu⟩

end Sys2Proof.Machine
end

section
/-! PROOFS. Machine control (44_control.md rule R200): HLT, the one instruction that leads to HALTED. -/

namespace Sys2Proof.Machine

variable {s t : State} {i : Instr}

theorem Ran.halted_iff (h : Ran i s t) (hr : s.run = .running) : t.run = .halted ↔ i = .hlt := by
  constructor
  · intro hhalted
    by_contra hi
    exact h.run_ne_halted hi hr hhalted
  · rintro rfl
    cases h
    rfl

/-- Settles O23: HLT answers `s.halt`, a terminal state; a cycle at 254 or 255 is `step_of_pastTheTop`, which raises;
and `Ran.halted_iff` says that no other instruction halts. -/
theorem hltHalts : Obligations.HltHalts := by
  refine ⟨fun o => rfl, fun s => ?_, fun s t hr hpc hstep => ?_,
    fun s t i hr hexec => (ran_of_exec hexec).halted_iff hr⟩
  · have hran : Ran .hlt s s.halt := .hlt
    have hstop : step s.halt = .next s.halt := step_terminal (by simp)
    exact ⟨s.halt, rfl, rfl, rfl, rfl, rfl, hran.regsSameExcept, .of_mem_eq rfl _, rfl, rfl,
      hran.fixedPartsSame, hstop⟩
  · rw [step_of_pastTheTop hr (by omega) (by omega)] at hstep
    cases hstep
    obtain ⟨hfaulted, -⟩ := latched_raised_frame s _ _ _ (.outOfBounds .memory 256)
    exact ⟨by simp, hfaulted⟩

end Sys2Proof.Machine
end

section
/-! PROOFS. Faults (60_exceptions.md rules R220, R221, R223 and R226): why an instruction raises, what it has done before
it raises, and which fault is reported where two sub-steps would fail. -/

namespace Sys2Proof

/-- The operand byte `r` is a register operand of the instruction, and a register operand before it names a register: the
one that a bad index is reported for (R220, R226). -/
def Instr.ReportsRegister (i : Instr) (r : Byte) : Prop :=
  match i with
  | .ldi a _ | .prn a | .push a | .pop a | .call a => r = a
  | .mul a b | .add a b => r = a ∨ (a.toNat < 8 ∧ r = b)
  | .ret | .hlt => False

end Sys2Proof

namespace Sys2Proof.Machine

variable {s t u : State} {i : Instr} {info : FaultInfo}

/-! ### An instruction that raises -/

/-- Why an instruction run on `s` raises a fault (R220). -/
inductive FaultCause (s : State) : Instr → FaultInfo → Prop
  | badRegister {i : Instr} {a : Byte} (ha : 8 ≤ a.toNat) (hi : i.ReportsRegister a) :
      FaultCause s i (.outOfBounds .register a.toNat)
  | overflow {i : Instr} {a : Byte} (hc : s.pushBlocked = true) (hi : i = .push a ∨ i = .call a) :
      FaultCause s i (.stackOverflow s.sp)
  | underflow {i : Instr} (hc : s.popBlocked = true) (hi : (∃ a, i = .pop a) ∨ i = .ret) :
      FaultCause s i (.stackUnderflow s.sp)

/-- The state in which an instruction run on `s` raises a fault: `s` itself, but that PUSH and CALL read their register
after a change that stands (R223). -/
inductive PartialEffect (s : State) : Instr → State → Prop
  | nothing {i : Instr} : PartialEffect s i s
  | push {a : Byte} (ha : 8 ≤ a.toNat) : PartialEffect s (.push a) s.spDown
  | call {a : Byte} (ha : 8 ≤ a.toNat) :
      PartialEffect s (.call a) (s.spDown.setByte (decSp s.sp).toNat (returnAddress s.pc))

/-- A partial effect leaves the PC, the registers and the output (R223). -/
theorem PartialEffect.frame (h : PartialEffect s i u) : u.pc = s.pc ∧ u.regs = s.regs ∧ u.out = s.out := by
  cases h with
  | nothing | push _ | call _ => exact ⟨rfl, rfl, rfl⟩

/-- An instruction that leads to FAULTED raises a fault of one of its causes, after its partial effect. -/
theorem Ran.raised_of_faulted (h : Ran i s t) (hr : s.run = .running) (hf : t.run = .faulted) :
    ∃ u info, t = u.raised info ∧ PartialEffect s i u ∧ FaultCause s i info := by
  cases h
  case pushBlocked hc => exact ⟨s, _, rfl, .nothing, .overflow hc (.inl rfl)⟩
  case callBlocked hc => exact ⟨s, _, rfl, .nothing, .overflow hc (.inr rfl)⟩
  case popBlocked hc => exact ⟨s, _, rfl, .nothing, .underflow hc (.inl ⟨_, rfl⟩)⟩
  case retBlocked hc => exact ⟨s, _, rfl, .nothing, .underflow hc (.inr rfl)⟩
  case ldiBad ha | prnBad ha | popBad ha _ => exact ⟨s, _, rfl, .nothing, .badRegister ha rfl⟩
  case mulBadA ha | addBadA ha => exact ⟨s, _, rfl, .nothing, .badRegister ha (.inl rfl)⟩
  case mulBadB ha hb | addBadB ha hb => exact ⟨s, _, rfl, .nothing, .badRegister hb (.inr ⟨ha, rfl⟩)⟩
  case pushBad ha _ => exact ⟨_, _, rfl, .push ha, .badRegister ha rfl⟩
  case callBad ha _ => exact ⟨_, _, rfl, .call ha, .badRegister ha rfl⟩
  all_goals simp [hr] at hf

/-! ### The causes of a cycle's record -/

/-- A window instruction that reports the register operand `a`, form by form. -/
theorem windowInstr_of_reportsRegister {a : Byte} (hi : s.windowInstr = some i) (h : i.ReportsRegister a) :
    ∃ x : Byte, s.windowInstr = some (.ldi a x) ∨ s.windowInstr = some (.prn a) ∨
      s.windowInstr = some (.mul a x) ∨ s.windowInstr = some (.add a x) ∨
      s.windowInstr = some (.push a) ∨ s.windowInstr = some (.pop a) ∨ s.windowInstr = some (.call a) ∨
      (x.toNat < 8 ∧ (s.windowInstr = some (.mul x a) ∨ s.windowInstr = some (.add x a))) := by
  rw [hi]
  cases i with
  | ldi b v =>
    cases h
    exact ⟨v, by simp⟩
  | prn b | push b | pop b | call b =>
    cases h
    exact ⟨0, by simp⟩
  | mul b c | add b c =>
    obtain rfl | ⟨hb, rfl⟩ := h
    · exact ⟨c, by simp⟩
    · exact ⟨b, by simp [hb]⟩
  | ret | hlt => exact h.elim

/-- A cycle that writes a record leads to FAULTED (R222). -/
theorem Stepped.faulted_of_fault {r : FaultRecord} (h : Stepped s t) (hnone : s.fault = none)
    (hrec : t.fault = some r) : t.run = .faulted := by
  obtain ⟨_, ⟨hf, _⟩, _⟩ | ⟨hfault, _⟩ := h.raised_or_kept
  · exact hf
  · simp [hfault, hnone] at hrec

/-- Settles O33: a fetch that leaves memory or finds no opcode raises its own fault, and an instruction raises for one of
the causes of `FaultCause`. -/
theorem cycleFaultsHaveTheListedCauses : Obligations.CycleFaultsHaveTheListedCauses := by
  refine ⟨⟨rfl, rfl, rfl, rfl, rfl⟩, fun s t r hr hnone hpc h hrec => ?_⟩
  have hs := stepped_of_step h
  have hf := hs.faulted_of_fault hnone hrec
  cases hs with
  | terminal hr' => exact absurd hr hr'
  | fetchFault _ _ _ hgt =>
    rw [max_eq_right hpc] at hrec
    cases hrec
    exact ⟨rfl, .inl ⟨rfl, rfl, hgt⟩⟩
  | illegal _ _ hi =>
    cases hrec
    exact ⟨rfl, .inr (.inr (.inl ⟨rfl, rfl, hi⟩))⟩
  | ran _ _ hi hran =>
    obtain ⟨u, info, rfl, heffect, hcause⟩ := hran.raised_of_faulted hr hf
    obtain ⟨hupc, -⟩ := heffect.frame
    cases hrec
    refine ⟨congrArg some hupc, ?_⟩
    cases hcause with
    | @badRegister a ha hreg =>
      obtain ⟨x, hx⟩ := windowInstr_of_reportsRegister hi hreg
      exact .inr (.inl ⟨a, x, rfl, rfl, ha, hx⟩)
    | @overflow a hc hpush =>
      obtain ⟨hcheck, -⟩ := pushBlocked_eq_true.mp hc
      exact .inr (.inr (.inr (.inl ⟨a, rfl, rfl, hcheck, by simpa [hi] using hpush⟩)))
    | underflow hc hpop =>
      obtain ⟨hcheck, -⟩ := popBlocked_eq_true.mp hc
      exact .inr (.inr (.inr (.inr ⟨rfl, rfl, hcheck, by simpa [hi] using hpop⟩)))

/-! ### What a faulting cycle leaves -/

/-- Settles O34: a fault before any instruction runs changes none of the fields named, and an instruction that raises has
made its `PartialEffect` only. -/
theorem faultLeavesOnlyTheListedEffects : Obligations.FaultLeavesOnlyTheListedEffects := by
  intro s t hm hr h hf
  cases stepped_of_step h with
  | terminal hr' => exact absurd hr hr'
  | fetchFault _ _ _ _ | illegal _ _ _ =>
    obtain ⟨-, hregs, hmem, hsp, hout⟩ := latched_raised_frame s _ _ _ _
    exact ⟨hregs, hout, .inl ⟨hsp, hmem⟩⟩
  | ran _ hpc hi hran =>
    obtain ⟨u, info, rfl, heffect, -⟩ := hran.raised_of_faulted hr hf
    obtain ⟨-, hregs, hout⟩ := heffect.frame
    refine ⟨.of_regs_eq hregs _, hout, ?_⟩
    cases heffect with
    | nothing => exact .inl ⟨rfl, .of_mem_eq rfl _⟩
    | @push a ha => exact .inr (.inl ⟨a, ha, hi, rfl, .of_mem_eq rfl _⟩)
    | @call a ha =>
      exact .inr (.inr ⟨a, ha, hi, rfl, pushed_returnAddress_toNat (s := s.fetched) hm hpc _,
        MemSameExcept.push (s := s.fetched) hm _ _⟩)

/-! ### The first failing sub-step -/

/-- An answer that is `s` with a fault raised is FAULTED with that fault, the PC as it was (R222). -/
theorem faultedWith_of_answers_raised {r : Result} (hr : r = .next (s.raised info)) (h : r = .next t) :
    FaultedWith info s t := by
  cases hr.symm.trans h
  exact ⟨rfl, rfl, rfl⟩

/-- Settles O35: the fetch of all three bytes comes before decoding, the first operand is read before the second, and the
stack check is the first sub-step of PUSH, CALL and POP. -/
theorem firstFailingSubStepIsReported : Obligations.FirstFailingSubStepIsReported := by
  refine ⟨fun s t hr hpc _ h => ?_, fun s t a b ha _ h => ?_, fun s t a _ hc hle h => ?_, fun s t a _ hc hle h => ?_⟩
  · rw [step_of_pastTheTop hr (by omega) (by omega)] at h
    cases h
    exact ⟨rfl, rfl, rfl⟩
  · obtain h | h := h
    · exact faultedWith_of_answers_raised (arith_badA ha b mulMod s) h
    · exact faultedWith_of_answers_raised (arith_badA ha b addMod s) h
  · have hblocked := pushBlocked_eq_true.mpr ⟨hc, hle⟩
    obtain h | h := h
    · exact faultedWith_of_answers_raised (execPush_blocked hblocked a) h
    · exact faultedWith_of_answers_raised (execCall_blocked hblocked a) h
  · exact faultedWith_of_answers_raised (execPop_blocked (popBlocked_eq_true.mpr ⟨hc, hle⟩) a) h

end Sys2Proof.Machine
end

section
/-! PROOFS. The host's operations (70_reset_and_hazards.md rules R262 to R268): `load` before the first cycle and after
it, an image that does not fit, and `run`. -/

namespace Sys2Proof.Machine

variable {s t : State} {bytes : List Byte}

/-! ### The state an accepted image leaves -/

/-- The state with an image written from address 0 on (R262). -/
def State.loaded (s : State) (bytes : List Byte) : State := { s with mem := s.mem.writeMany 0 bytes }

theorem load_eq_loaded (hst : s.started = false) (hr : s.run = .running) (hlen : bytes.length ≤ 256) :
    load bytes s = .next (s.loaded bytes) := load_of_le hst hr hlen

theorem State.loaded_mem_wf (hm : s.mem.wf) (hlen : bytes.length ≤ 256) : (s.loaded bytes).mem.wf :=
  Memory.wf_writeMany hm bytes (by omega)

theorem State.loaded_byteAt_of_lt (hm : s.mem.wf) (hlen : bytes.length ≤ 256) (k : Nat) (hk : k < bytes.length) :
    (s.loaded bytes).byteAt k = bytes[k] := read_writeMany_zero hm hlen k hk

theorem State.loaded_byteAt_of_ge (hm : s.mem.wf) (hlen : bytes.length ≤ 256) (k : Nat) (hk : bytes.length ≤ k) :
    (s.loaded bytes).byteAt k = s.byteAt k := by
  rw [State.byteAt, State.loaded, Memory.read_writeMany hm bytes (by omega)]
  simp [hk, State.byteAt]

/-- An image written over itself changes nothing: the two memories read the same at every address. -/
theorem State.loaded_loaded (hm : s.mem.wf) (hlen : bytes.length ≤ 256) :
    (s.loaded bytes).loaded bytes = s.loaded bytes := by
  have hm' : (s.loaded bytes).mem.wf := loaded_mem_wf hm hlen
  have hmem : ((s.loaded bytes).loaded bytes).mem = (s.loaded bytes).mem := by
    refine Memory.ext_read (loaded_mem_wf hm' hlen) hm' fun k => ?_
    rcases Nat.lt_or_ge k bytes.length with hk | hk
    · exact (loaded_byteAt_of_lt hm' hlen k hk).trans (loaded_byteAt_of_lt hm hlen k hk).symm
    · exact loaded_byteAt_of_ge hm' hlen k hk
  exact congrArg (fun m => { s with mem := m }) hmem

/-- Settles O50: the image and the other bytes are the reads of `State.loaded`, and a second load writes the image over
itself. -/
theorem loadWritesExactlyThePrefix : Obligations.LoadWritesExactlyThePrefix := by
  intro bytes s hm hst hr hlen
  refine ⟨s.loaded bytes, load_eq_loaded hst hr hlen, State.loaded_byteAt_of_lt hm hlen,
    State.loaded_byteAt_of_ge hm hlen, .of_regs_eq rfl _, rfl, rfl, ⟨rfl, rfl, rfl⟩, ⟨rfl, rfl, rfl, rfl, rfl⟩, ?_⟩
  rw [load_eq_loaded (s := s.loaded bytes) hst hr hlen, State.loaded_loaded hm hlen]

/-! ### The invariant -/

theorem State.Inv.loaded (hs : s.Inv) (hlen : bytes.length ≤ 256) : (s.loaded bytes).Inv :=
  { hs with mem_wf := State.loaded_mem_wf hs.mem_wf hlen }

/-- `ProgramTooLarge` is the one fault raised before any cycle, and the one whose record names no PC (R264). -/
theorem State.Inv.faultWith_programTooLarge (hs : s.Inv) (hst : s.started = false) (n : Nat) :
    (s.faultWith (.programTooLarge n) none).Inv where
  mem_wf := hs.mem_wf
  pc_le := hs.pc_le
  cfg_wf := hs.cfg_wf
  fault_iff := by simp [State.faultWith]
  stack_range := hs.stack_range
  record_pc := by
    intro r hrec
    cases hrec
    exact .inl ⟨rfl, rfl, hst⟩
  fresh := fun _ =>
    have ⟨hpc, hsp, hout, _⟩ := hs.fresh hst
    ⟨hpc, hsp, hout, nofun⟩

/-- Settles O6, by the three ways an accepted load can go. -/
theorem loadKeepsInvariant : Obligations.LoadKeepsInvariant := by
  intro bytes s t hs h
  obtain ⟨hst, ⟨_, rfl⟩ | ⟨_, _, rfl⟩ | ⟨_, hlen, rfl⟩⟩ := load_cases h
  · exact hs
  · exact hs.faultWith_programTooLarge hst _
  · exact hs.loaded hlen

/-! ### When `load` is refused or writes nothing -/

/-- After the first cycle every `load` is refused (R263). -/
theorem load_of_started (h : s.started = true) (bytes : List Byte) : load bytes s = .refused .loadAfterFirstCycle :=
  if_pos h

/-- A machine faulted before its first cycle keeps its state (R95, log entry 10). -/
theorem load_of_terminal (hst : s.started = false) (hr : s.run ≠ .running) (bytes : List Byte) :
    load bytes s = .next s := by
  rw [load, if_neg (by simp [hst]), if_pos (by simpa [s.runningFlag_iff] using hr)]

/-- `load` of an image that does not fit, before the first cycle (R264). -/
theorem load_of_gt (hst : s.started = false) (hr : s.run = .running) (hlen : 256 < bytes.length) :
    load bytes s = .next (s.faultWith (.programTooLarge bytes.length) none) := by
  rw [load, if_neg (by simp [hst]), if_neg (by simp [s.runningFlag_iff, hr]), if_pos hlen]

theorem load_nil (hst : s.started = false) : load [] s = .next s := by
  by_cases hr : s.run = .running
  · exact load_eq_loaded hst hr (Nat.zero_le 256)
  · exact load_of_terminal hst hr []

/-- Settles O51: a step of a running machine sets `started`, a load does not, and an oversized one leaves a
terminal state. -/
theorem loadOnlyBeforeTheFirstCycle : Obligations.LoadOnlyBeforeTheFirstCycle := by
  refine ⟨fun _ => rfl, fun s t hr h => ?_, fun bytes more s hm hst hr hlen hmore => ?_, fun _ => load_nil,
    fun bytes more s t hst hr hlen h => ?_⟩
  · exact load_of_started ((stepped_of_step h).started_iff.mpr (.inr hr))
  · have hm' : (s.loaded bytes).mem.wf := State.loaded_mem_wf hm hlen
    exact ⟨s.loaded bytes, (s.loaded bytes).loaded more, load_eq_loaded hst hr hlen, load_eq_loaded hst hr hmore,
      State.loaded_byteAt_of_lt hm hlen, State.loaded_byteAt_of_ge hm hlen,
      State.loaded_byteAt_of_lt hm' hmore, State.loaded_byteAt_of_ge hm' hmore⟩
  · rw [load_of_gt hst hr hlen] at h
    cases h
    exact load_of_terminal (s := s.faultWith _ none) hst nofun more

/-- Settles O52: `load_of_gt`, and the state it answers is terminal. -/
theorem oversizedLoadFaults : Obligations.OversizedLoadFaults :=
  fun _ _ hst hr hlen => ⟨_, load_of_gt hst hr hlen, rfl, rfl, .of_mem_eq rfl _, .of_regs_eq rfl _, rfl, rfl, rfl,
    ⟨rfl, rfl, rfl, rfl, rfl⟩, core_run_terminal nofun⟩

/-! ### `run` -/

theorem State.ended_iff : s.ended ↔ s.run ≠ .running := by
  cases hr : s.run <;> simp [State.ended, hr]

/-- A run from a terminal state stays there (R268). -/
theorem runFor_terminal (h : s.run ≠ .running) (n : Nat) : runFor n s = s := by
  cases n with
  | zero => rfl
  | succ n => exact if_neg (by simpa [s.runningFlag_iff] using h)

/-- A run of one cycle more is a step and then the run, from a terminal state too. -/
theorem runFor_succ (h : step s = .next t) (n : Nat) : runFor (n + 1) s = runFor n t := by
  by_cases hr : s.run = .running
  · rw [runFor, if_pos (s.runningFlag_iff.mpr hr), h]
  · obtain rfl : t = s := (stepped_of_step h).eq_of_terminal hr
    rw [runFor_terminal hr, runFor_terminal hr]

theorem runFor_add (m n : Nat) (s : State) : runFor (m + n) s = runFor n (runFor m s) := by
  induction m generalizing s with
  | zero => rw [Nat.zero_add, runFor]
  | succ m ih =>
    obtain ⟨t, h, -⟩ := step_stepped s
    rw [Nat.add_right_comm, runFor_succ h, runFor_succ h, ih]

/-- Every step answers a next state, so the host's repeated step never stops short. -/
theorem core_run_eq_runFor (n : Nat) (s : State) : Sys2Proof.core.run n s = .next (runFor n s) := by
  induction n generalizing s with
  | zero => rfl
  | succ n ih =>
    obtain ⟨t, h, -⟩ := step_stepped s
    rw [core_run_next h, runFor_succ h, ih]

/-- Settles O53, by induction on the number of cycles, one step at a time. -/
theorem runIsRepeatedStep : Obligations.RunIsRepeatedStep :=
  ⟨runFor_add, fun n _ h => runFor_terminal (State.ended_iff.mp h) n, core_run_eq_runFor⟩

end Sys2Proof.Machine
end
